-- ==== Sys2Proof/Word.lean ====
section
/-! DEFINITION. The word types of the core: bytes, 16-bit words, and the fields of an instruction word. Bits are
numbered from 0 at the least significant end (00_scope.md section 7.1). -/

namespace Sys2Proof

/-- A general register, a timer, a byte of memory, or the immediate NN (rules R10, R16, R20, R64). -/
abbrev Byte := BitVec 8

/-- The address register, the program counter, a stack entry, or an instruction word (rules R12, R13, R15, R60). -/
abbrev Word := BitVec 16

/-- A four-bit field of an instruction word: the family, a row count, a sub-opcode digit (rule R62). -/
abbrev Nibble := BitVec 4

/-- The number of a general register, 0 to 15, as the fields X and Y hold it (rules R10, R64). -/
abbrev Reg := BitVec 4

/-- The number of a key, 0 to 15 (rule R19). -/
abbrev KeyIx := BitVec 4

/-- The immediate NNN (rule R64). -/
abbrev Imm12 := BitVec 12

/-- The register that doubles as the flag (rule R11). -/
def VF : Reg := 15

end Sys2Proof
end

