-- ==== Sys2Proof/Config.lean ====
section
/-! DEFINITION. The fixed parameters of the core (rule R1) and its one free value, the random draw of CXNN
(rule R111). The schedule of host operations and HALT_PC (rule R2) are not constants of the model. -/

namespace Sys2Proof.Config

/-- MEM_SIZE of rule R1: addresses 0x000 to 0xFFF exist, every other address does not. -/
abbrev memSize : Nat := 4096

/-- FONT_BASE of rule R1. -/
abbrev fontBase : Nat := 0

/-- FONT_GLYPHS times GLYPH_BYTES of rule R1: 16 glyphs of 5 bytes. -/
abbrev fontSize : Nat := 80

/-- GLYPH_BYTES of rule R1. -/
abbrev glyphBytes : Nat := 5

/-- PROG_BASE of rule R1: where `loadProgram` copies a program and where it sets the program counter. -/
abbrev progBase : Nat := 512

/-- PROG_MAX of rule R1: the longest program, in bytes. -/
abbrev progMax : Nat := 3584

/-- STACK_DEPTH of rule R1. -/
abbrev stackDepth : Nat := 16

/-- FREE VALUE (log entry 2). The bytes `RandomByte()` supplies, one for each execution of CXNN: the k-th draw is
`randomByte k`. Rule R111 gives it no law but its range, so it has no body and nothing can be proved of a value. -/
opaque randomByte : Nat → Byte

end Sys2Proof.Config
end

