-- ==== Sys2Proof/Syntax.lean ====
section
/-! DEFINITION. The instruction set: one constructor per row of the opcode map (rule R68), in its order. The spec's
canonical name of an instruction is its hexadecimal pattern (rule R69), so the constructor of 8XY4 is `op8XY4`. Every
operand has the width of its field (rules R62, R64), so no ill-formed operand can be written down. -/

namespace Sys2Proof

/-- The 34 instructions of rule R68. A word that is none of them is not here: it is an unrecognized word (rule R66). -/
inductive Instr where
  /-- `CLS`: clear the framebuffer (R140). -/
  | op00E0
  /-- `RET`: return from subroutine (R80). -/
  | op00EE
  /-- `JP nnn`: jump (R81). -/
  | op1NNN (nnn : Imm12)
  /-- `CALL nnn`: call subroutine (R82). -/
  | op2NNN (nnn : Imm12)
  /-- `SE Vx, nn`: skip if VX = NN (R84). -/
  | op3XNN (x : Reg) (nn : Byte)
  /-- `SNE Vx, nn`: skip if VX differs from NN (R85). -/
  | op4XNN (x : Reg) (nn : Byte)
  /-- `SE Vx, Vy`: skip if VX = VY (R86). -/
  | op5XY0 (x : Reg) (y : Reg)
  /-- `SNE Vx, Vy`: skip if VX differs from VY (R87). -/
  | op9XY0 (x : Reg) (y : Reg)
  /-- `LD Vx, nn`: VX = NN (R100). -/
  | op6XNN (x : Reg) (nn : Byte)
  /-- `ADD Vx, nn`: VX = VX + NN, no flag (R101). -/
  | op7XNN (x : Reg) (nn : Byte)
  /-- `LD Vx, Vy`: VX = VY (R102). -/
  | op8XY0 (x : Reg) (y : Reg)
  /-- `OR Vx, Vy`: VX = VX OR VY (R103). -/
  | op8XY1 (x : Reg) (y : Reg)
  /-- `AND Vx, Vy`: VX = VX AND VY (R104). -/
  | op8XY2 (x : Reg) (y : Reg)
  /-- `XOR Vx, Vy`: VX = VX XOR VY (R105). -/
  | op8XY3 (x : Reg) (y : Reg)
  /-- `ADD Vx, Vy`: VX = VX + VY, VF = carry (R106). -/
  | op8XY4 (x : Reg) (y : Reg)
  /-- `SUB Vx, Vy`: VX = VX - VY, VF = no borrow (R107). -/
  | op8XY5 (x : Reg) (y : Reg)
  /-- `SHR Vx`: VX = VX >> 1, VF = bit out; the field Y is ignored (R108). -/
  | op8XY6 (x : Reg) (y : Reg)
  /-- `SUBN Vx, Vy`: VX = VY - VX, VF = no borrow (R109). -/
  | op8XY7 (x : Reg) (y : Reg)
  /-- `SHL Vx`: VX = VX << 1, VF = bit out; the field Y is ignored (R110). -/
  | op8XYE (x : Reg) (y : Reg)
  /-- `LD I, nnn`: I = NNN (R120). -/
  | opANNN (nnn : Imm12)
  /-- `JP V0, nnn`: jump to NNN + V0 (R83). -/
  | opBNNN (nnn : Imm12)
  /-- `RND Vx, nn`: VX = random AND NN (R111). -/
  | opCXNN (x : Reg) (nn : Byte)
  /-- `DRW Vx, Vy, n`: draw a sprite, VF = collision (R141). -/
  | opDXYN (x : Reg) (y : Reg) (n : Nibble)
  /-- `SKP Vx`: skip if key VX is pressed (R150). -/
  | opEX9E (x : Reg)
  /-- `SKNP Vx`: skip if key VX is not pressed (R151). -/
  | opEXA1 (x : Reg)
  /-- `LD Vx, DT`: VX = delay timer (R153). -/
  | opFX07 (x : Reg)
  /-- `LD Vx, K`: wait for a key, VX = its index (R152). -/
  | opFX0A (x : Reg)
  /-- `LD DT, Vx`: delay timer = VX (R154). -/
  | opFX15 (x : Reg)
  /-- `LD ST, Vx`: sound timer = VX (R155). -/
  | opFX18 (x : Reg)
  /-- `ADD I, Vx`: I = I + VX, VF = (I exceeds 0xFFF) (R121). -/
  | opFX1E (x : Reg)
  /-- `LD F, Vx`: I = address of the glyph for VX's low nibble (R122). -/
  | opFX29 (x : Reg)
  /-- `LD B, Vx`: store the decimal digits of VX at I, I+1, I+2 (R123). -/
  | opFX33 (x : Reg)
  /-- `LD [I], Vx`: store V0 to VX at I, I = I + X + 1 (R125). -/
  | opFX55 (x : Reg)
  /-- `LD Vx, [I]`: load V0 to VX from I, I = I + X + 1 (R126). -/
  | opFX65 (x : Reg)
  deriving DecidableEq, Repr

/-- A row of the opcode map: a word `op` is an instruction of the row when `op &&& mask = pattern` (rules R65, R68). -/
structure OpRow where
  mnemonic : String
  mask     : Word
  pattern  : Word
  deriving DecidableEq, Repr

end Sys2Proof
end

