-- ==== Sys2Proof/WellFormed.lean ====
section
/-! DEFINITION. The checks. An instruction needs none of its own: each operand has its field's width (`Instr`). What can
be ill formed is a WORD that is no instruction (rule R66), a program that does not fit (rule R201), and the arguments of
the two host operations whose range the caller must keep (rules R185, R187). -/

namespace Sys2Proof

/-- Is `op` one of the instruction words? The complement of the table of rule R66 ("the unrecognized words are
exactly ..."), family by family: an independent second reading beside the decoder, which follows rule R68. -/
def wordWellFormed (op : Word) : Bool :=
  let family := op.toNat / 4096
  let n      := op.toNat % 16
  let nn     := op.toNat % 256
  if family = 0x0 then op.toNat = 0x00E0 || op.toNat = 0x00EE
  else if family = 0x5 || family = 0x9 then n = 0
  else if family = 0x8 then !([0x8, 0x9, 0xA, 0xB, 0xC, 0xD, 0xF].contains n)
  else if family = 0xE then nn = 0x9E || nn = 0xA1
  else if family = 0xF then [0x07, 0x0A, 0x15, 0x18, 0x1E, 0x29, 0x33, 0x55, 0x65].contains nn
  else true

/-- A program fits when it is at most PROG_MAX bytes long (rule R201, an inclusive bound). -/
def programFits (bytes : List Byte) : Bool := bytes.length ≤ Config.progMax

/-- The range of `setKey`'s index that the caller keeps (rule R185). -/
def keyIndexOk (index : Nat) : Bool := index ≤ 15

/-- The range of `pixelAt`'s coordinates that the caller keeps (rule R187). -/
def pixelOk (x y : Nat) : Bool := x ≤ 63 && y ≤ 31

end Sys2Proof
end

