-- ==== Sys2Proof/Decode.lean ====
section
/-! DEFINITION. The fields of an instruction word (rule R62), the decoder (rules R65, R68), a decoder of bytes as
memory holds them (rule R45), the encoder by the six formats of rule R63, and each instruction's row of the opcode
map. The decoder is total on words and bytes and rejects by name. -/

namespace Sys2Proof

/-- The word whose high byte is `hi` and whose low byte is `lo` (rule R61: `hi * 256 + lo`). -/
def wordOf (hi lo : Byte) : Word := hi ++ lo

/-- `op[15:8]`, the byte at the lower address (rule R45). -/
def highByte (op : Word) : Byte := op.extractLsb' 8 8

/-- `op[7:0]`, the byte at the higher address (rule R45). -/
def lowByte (op : Word) : Byte := op.extractLsb' 0 8

/-- `op[15:12]` (rule R62). -/
def fieldFamily (op : Word) : Nibble := op.extractLsb' 12 4

/-- `X = op[11:8]` (rule R62). -/
def fieldX (op : Word) : Reg := op.extractLsb' 8 4

/-- `Y = op[7:4]` (rule R62). -/
def fieldY (op : Word) : Reg := op.extractLsb' 4 4

/-- `N = op[3:0]` (rule R62). -/
def fieldN (op : Word) : Nibble := op.extractLsb' 0 4

/-- `NN = op[7:0]` (rule R62). -/
def fieldNN (op : Word) : Byte := op.extractLsb' 0 8

/-- `NNN = op[11:0]` (rule R62). -/
def fieldNNN (op : Word) : Imm12 := op.extractLsb' 0 12

/-- Why the decoder gives no instruction. -/
inductive DecodeError where
  /-- The word matches no row of the opcode map (rule R66): not an error of the machine, it runs as a no-op. -/
  | unrecognized (op : Word)
  /-- Fewer than the two bytes of a word are left (rule R60). Only the byte decoder says so; a step never does. -/
  | truncated
  deriving DecidableEq, Repr

/-- Family 8: the low digit selects (rule R68). -/
def decode8 (op : Word) : Except DecodeError Instr :=
  match fieldN op with
  | 0x0#4 => .ok (.op8XY0 (fieldX op) (fieldY op))
  | 0x1#4 => .ok (.op8XY1 (fieldX op) (fieldY op))
  | 0x2#4 => .ok (.op8XY2 (fieldX op) (fieldY op))
  | 0x3#4 => .ok (.op8XY3 (fieldX op) (fieldY op))
  | 0x4#4 => .ok (.op8XY4 (fieldX op) (fieldY op))
  | 0x5#4 => .ok (.op8XY5 (fieldX op) (fieldY op))
  | 0x6#4 => .ok (.op8XY6 (fieldX op) (fieldY op))
  | 0x7#4 => .ok (.op8XY7 (fieldX op) (fieldY op))
  | 0xE#4 => .ok (.op8XYE (fieldX op) (fieldY op))
  | _ => .error (.unrecognized op)

/-- Family E: the low byte selects (rule R68). -/
def decodeE (op : Word) : Except DecodeError Instr :=
  match fieldNN op with
  | 0x9E#8 => .ok (.opEX9E (fieldX op))
  | 0xA1#8 => .ok (.opEXA1 (fieldX op))
  | _ => .error (.unrecognized op)

/-- Family F: the low byte selects (rule R68). -/
def decodeF (op : Word) : Except DecodeError Instr :=
  match fieldNN op with
  | 0x07#8 => .ok (.opFX07 (fieldX op))
  | 0x0A#8 => .ok (.opFX0A (fieldX op))
  | 0x15#8 => .ok (.opFX15 (fieldX op))
  | 0x18#8 => .ok (.opFX18 (fieldX op))
  | 0x1E#8 => .ok (.opFX1E (fieldX op))
  | 0x29#8 => .ok (.opFX29 (fieldX op))
  | 0x33#8 => .ok (.opFX33 (fieldX op))
  | 0x55#8 => .ok (.opFX55 (fieldX op))
  | 0x65#8 => .ok (.opFX65 (fieldX op))
  | _ => .error (.unrecognized op)

/-- Families 0, 5 and 9: every literal digit of the pattern must match (rule R65, log entry 8). -/
def decode0 (op : Word) : Except DecodeError Instr :=
  match fieldNNN op with
  | 0x0E0#12 => .ok .op00E0
  | 0x0EE#12 => .ok .op00EE
  | _ => .error (.unrecognized op)

/-- Family 5 (see `decode0`). -/
def decode5 (op : Word) : Except DecodeError Instr :=
  match fieldN op with
  | 0x0#4 => .ok (.op5XY0 (fieldX op) (fieldY op))
  | _ => .error (.unrecognized op)

/-- Family 9 (see `decode0`). -/
def decode9 (op : Word) : Except DecodeError Instr :=
  match fieldN op with
  | 0x0#4 => .ok (.op9XY0 (fieldX op) (fieldY op))
  | _ => .error (.unrecognized op)

/-- The decoder (rule R65): the high digit selects a family, the low digit or byte a variant in it. -/
def decode (op : Word) : Except DecodeError Instr :=
  match fieldFamily op with
  | 0x0#4 => decode0 op
  | 0x1#4 => .ok (.op1NNN (fieldNNN op))
  | 0x2#4 => .ok (.op2NNN (fieldNNN op))
  | 0x3#4 => .ok (.op3XNN (fieldX op) (fieldNN op))
  | 0x4#4 => .ok (.op4XNN (fieldX op) (fieldNN op))
  | 0x5#4 => decode5 op
  | 0x6#4 => .ok (.op6XNN (fieldX op) (fieldNN op))
  | 0x7#4 => .ok (.op7XNN (fieldX op) (fieldNN op))
  | 0x8#4 => decode8 op
  | 0x9#4 => decode9 op
  | 0xA#4 => .ok (.opANNN (fieldNNN op))
  | 0xB#4 => .ok (.opBNNN (fieldNNN op))
  | 0xC#4 => .ok (.opCXNN (fieldX op) (fieldNN op))
  | 0xD#4 => .ok (.opDXYN (fieldX op) (fieldY op) (fieldN op))
  | 0xE#4 => decodeE op
  | _ => decodeF op

/-- The decoder of bytes in the order memory holds them, high byte first (rules R45, R60): the instruction and the
bytes after its word. -/
def decodeBytes : List Byte → Except DecodeError (Instr × List Byte)
  | hi :: lo :: rest =>
    match decode (wordOf hi lo) with
    | .ok i => .ok (i, rest)
    | .error e => .error e
  | _ => .error .truncated

/-- Format NNN of rule R63. -/
def encNNN (family : Nibble) (nnn : Imm12) : Word := family ++ nnn

/-- Format XNN of rule R63. -/
def encXNN (family : Nibble) (x : Reg) (nn : Byte) : Word := (family ++ x ++ nn : BitVec 16)

/-- Formats XYN and XY of rule R63; in format XY the low digit is literal. -/
def encXYN (family : Nibble) (x y : Reg) (n : Nibble) : Word := (family ++ x ++ (y ++ n) : BitVec 16)

/-- The encoder: the one word of each instruction (rules R63, R68). Format X is format XNN with a literal low byte. -/
def encode : Instr → Word
  | .op00E0 => 0x00E0
  | .op00EE => 0x00EE
  | .op1NNN nnn => encNNN 0x1 nnn
  | .op2NNN nnn => encNNN 0x2 nnn
  | .op3XNN x nn => encXNN 0x3 x nn
  | .op4XNN x nn => encXNN 0x4 x nn
  | .op5XY0 x y => encXYN 0x5 x y 0x0
  | .op9XY0 x y => encXYN 0x9 x y 0x0
  | .op6XNN x nn => encXNN 0x6 x nn
  | .op7XNN x nn => encXNN 0x7 x nn
  | .op8XY0 x y => encXYN 0x8 x y 0x0
  | .op8XY1 x y => encXYN 0x8 x y 0x1
  | .op8XY2 x y => encXYN 0x8 x y 0x2
  | .op8XY3 x y => encXYN 0x8 x y 0x3
  | .op8XY4 x y => encXYN 0x8 x y 0x4
  | .op8XY5 x y => encXYN 0x8 x y 0x5
  | .op8XY6 x y => encXYN 0x8 x y 0x6
  | .op8XY7 x y => encXYN 0x8 x y 0x7
  | .op8XYE x y => encXYN 0x8 x y 0xE
  | .opANNN nnn => encNNN 0xA nnn
  | .opBNNN nnn => encNNN 0xB nnn
  | .opCXNN x nn => encXNN 0xC x nn
  | .opDXYN x y n => encXYN 0xD x y n
  | .opEX9E x => encXNN 0xE x 0x9E
  | .opEXA1 x => encXNN 0xE x 0xA1
  | .opFX07 x => encXNN 0xF x 0x07
  | .opFX0A x => encXNN 0xF x 0x0A
  | .opFX15 x => encXNN 0xF x 0x15
  | .opFX18 x => encXNN 0xF x 0x18
  | .opFX1E x => encXNN 0xF x 0x1E
  | .opFX29 x => encXNN 0xF x 0x29
  | .opFX33 x => encXNN 0xF x 0x33
  | .opFX55 x => encXNN 0xF x 0x55
  | .opFX65 x => encXNN 0xF x 0x65

/-- The row of the opcode map (rule R68) an instruction belongs to. -/
def Instr.row : Instr → OpRow
  | .op00E0 => ⟨"00E0", 0xFFFF, 0x00E0⟩
  | .op00EE => ⟨"00EE", 0xFFFF, 0x00EE⟩
  | .op1NNN _ => ⟨"1NNN", 0xF000, 0x1000⟩
  | .op2NNN _ => ⟨"2NNN", 0xF000, 0x2000⟩
  | .op3XNN _ _ => ⟨"3XNN", 0xF000, 0x3000⟩
  | .op4XNN _ _ => ⟨"4XNN", 0xF000, 0x4000⟩
  | .op5XY0 _ _ => ⟨"5XY0", 0xF00F, 0x5000⟩
  | .op9XY0 _ _ => ⟨"9XY0", 0xF00F, 0x9000⟩
  | .op6XNN _ _ => ⟨"6XNN", 0xF000, 0x6000⟩
  | .op7XNN _ _ => ⟨"7XNN", 0xF000, 0x7000⟩
  | .op8XY0 _ _ => ⟨"8XY0", 0xF00F, 0x8000⟩
  | .op8XY1 _ _ => ⟨"8XY1", 0xF00F, 0x8001⟩
  | .op8XY2 _ _ => ⟨"8XY2", 0xF00F, 0x8002⟩
  | .op8XY3 _ _ => ⟨"8XY3", 0xF00F, 0x8003⟩
  | .op8XY4 _ _ => ⟨"8XY4", 0xF00F, 0x8004⟩
  | .op8XY5 _ _ => ⟨"8XY5", 0xF00F, 0x8005⟩
  | .op8XY6 _ _ => ⟨"8XY6", 0xF00F, 0x8006⟩
  | .op8XY7 _ _ => ⟨"8XY7", 0xF00F, 0x8007⟩
  | .op8XYE _ _ => ⟨"8XYE", 0xF00F, 0x800E⟩
  | .opANNN _ => ⟨"ANNN", 0xF000, 0xA000⟩
  | .opBNNN _ => ⟨"BNNN", 0xF000, 0xB000⟩
  | .opCXNN _ _ => ⟨"CXNN", 0xF000, 0xC000⟩
  | .opDXYN _ _ _ => ⟨"DXYN", 0xF000, 0xD000⟩
  | .opEX9E _ => ⟨"EX9E", 0xF0FF, 0xE09E⟩
  | .opEXA1 _ => ⟨"EXA1", 0xF0FF, 0xE0A1⟩
  | .opFX07 _ => ⟨"FX07", 0xF0FF, 0xF007⟩
  | .opFX0A _ => ⟨"FX0A", 0xF0FF, 0xF00A⟩
  | .opFX15 _ => ⟨"FX15", 0xF0FF, 0xF015⟩
  | .opFX18 _ => ⟨"FX18", 0xF0FF, 0xF018⟩
  | .opFX1E _ => ⟨"FX1E", 0xF0FF, 0xF01E⟩
  | .opFX29 _ => ⟨"FX29", 0xF0FF, 0xF029⟩
  | .opFX33 _ => ⟨"FX33", 0xF0FF, 0xF033⟩
  | .opFX55 _ => ⟨"FX55", 0xF0FF, 0xF055⟩
  | .opFX65 _ => ⟨"FX65", 0xF0FF, 0xF065⟩

/-- One instruction of each row, in the order of rule R68. -/
def Instr.samples : List Instr :=
  [.op00E0, .op00EE, .op1NNN 0, .op2NNN 0, .op3XNN 0 0, .op4XNN 0 0, .op5XY0 0 0, .op9XY0 0 0, .op6XNN 0 0,
   .op7XNN 0 0, .op8XY0 0 0, .op8XY1 0 0, .op8XY2 0 0, .op8XY3 0 0, .op8XY4 0 0, .op8XY5 0 0, .op8XY6 0 0, .op8XY7 0 0,
   .op8XYE 0 0, .opANNN 0, .opBNNN 0, .opCXNN 0 0, .opDXYN 0 0 0, .opEX9E 0, .opEXA1 0, .opFX07 0, .opFX0A 0,
   .opFX15 0, .opFX18 0, .opFX1E 0, .opFX29 0, .opFX33 0, .opFX55 0, .opFX65 0]

/-- The opcode map of rule R68: its 34 rows. -/
def opcodeTable : List OpRow := Instr.samples.map Instr.row

/-- The bytes of an instruction whose bits are `w`, numbered as spec/opcode_table.json numbers them (bit 0 the least
significant bit of the word), every bit from `nbits` on 0: high byte first, as memory holds them (rule R45). -/
def tableBytes (nbits w : Nat) : List Byte :=
  let op : Word := BitVec.ofNat 16 (w % 2 ^ nbits)
  [highByte op, lowByte op]

/-- The instruction the decoder reads from a table word. -/
def decodeTableWord (nbits w : Nat) : Option Instr :=
  match decodeBytes (tableBytes nbits w) with
  | .ok (i, _) => some i
  | .error _ => none

end Sys2Proof
end

