-- ==== Sys2Proof/Machine/State.lean ====
section
/-! DEFINITION. The state of the core (10_state.md, rules R10 to R23), the reasons a step or a host operation stops,
and the state right after reset (rules R25, R200). -/

namespace Sys2Proof.Machine

/-- `MEM` (rules R16, R40): the bytes that differ from what an unlisted address reads as (`unlistedByte`), as
(address, byte) pairs with strictly rising addresses below 4096 (`Memory.wf`). -/
abbrev Memory := List Host.Cell

/-- `FB` (rule R17): 32 rows of 64 cells; bit x of row y is the cell in column x (log entry 22). -/
abbrev FrameBuffer := Vector (BitVec 64) 32

/-- The whole state of the core: the twelve items of 10_state.md, and one field of the model's own, `draws`. -/
structure State where
  /-- `V[0..15]`, the general registers; `V[15]` is VF (R10, R11). -/
  v     : Vector Byte 16
  /-- `I`, the address register, never masked to 12 bits (R12). -/
  i     : Word
  /-- `PC`: between steps the address of the next instruction, during one the address of that instruction (R13). -/
  pc    : Word
  /-- `SP`: the number of return addresses on the stack, 0 to 16 (R14, log entry 16). -/
  sp    : Fin 17
  /-- `STACK[0..15]`; it has no memory address (R15). -/
  stack : Vector Word 16
  /-- `MEM[0..4095]` (R16). -/
  mem   : Memory
  /-- `FB[0..31][0..63]` (R17). -/
  fb    : FrameBuffer
  /-- `DF`: a redraw is owed (R18). -/
  df    : Bool
  /-- `KEY[0..15]`: key k is held down (R19). -/
  key   : Vector Bool 16
  /-- `DT`, the delay timer (R20). -/
  dt    : Byte
  /-- `ST`, the sound timer (R21). -/
  st    : Byte
  /-- `BEEP`: the last tick took ST from 1 to 0 (R22). -/
  beep  : Bool
  /-- Not the spec's: how many random bytes have been drawn; the next draw is `Config.randomByte draws` (log entry 2). -/
  draws : Nat
  deriving DecidableEq, Repr

/-- The error conditions of rule R170, a closed list. A fault changes no state (R176, log entry 6). -/
inductive Fault where
  /-- Raised by fetch, DXYN, FX33, FX55 and FX65 when an access would touch address `addr`, 4096 or above (R171); `op`
  is absent when the fetch itself faults (R177). The spec's own stop: safe. -/
  | addressOutOfRange (pc : Word) (op : Option Word) (addr : Nat)
  /-- Raised by 2NNN when SP = 16 (R172). The spec's own stop: safe. -/
  | stackOverflow (pc : Word) (op : Word)
  /-- Raised by 00EE when SP = 0 (R173). The spec's own stop: safe. -/
  | stackUnderflow (pc : Word) (op : Word)
  /-- Answered by `loadProgram` when the program has `len` bytes, more than 3584 (R174); no step raises it. The spec's
  own failure: safe. -/
  | programTooLarge (len : Nat)
  deriving DecidableEq, Repr

/-- What the model gives no meaning to. No step of the model answers one: the first is for an instruction without a
meaning (there is none), the others are host calls outside the contract (U9, U10, log entry 19). -/
inductive Refusal where
  /-- An arm of `exec` without a meaning. No arm raises it. Safe: nothing follows from a refusal. -/
  | notModelled (mnemonic : String)
  /-- Raised by `setKey` for an index above 15, which the caller must not pass (R185, D23). Safe: the host owes it. -/
  | keyIndexOutOfRange (index : Nat)
  /-- Raised by `pixelAt` for a cell outside 64 by 32 (R187, D23). Safe: the host owes it. -/
  | pixelOutOfRange (x y : Nat)
  /-- Raised by a session's `step` before a successful `loadProgram` (R202, D24). Safe: the host owes it. -/
  | stepBeforeLoad
  /-- Raised by a session's `loadProgram` when a program is loaded already (R201, D20). Safe: the host owes it. -/
  | loadDuringRun
  deriving DecidableEq, Repr

/-- What a step, and an instruction, answers. -/
abbrev Result := Host.Outcome State Fault Refusal

/-- The state after `reset` (rules R25, R200): everything 0, and memory with nothing listed, so it holds the font at
0x000 to 0x04F and, where the spec leaves MEM_INIT open, 0 (log entry 1; `State.resetWith` takes any contents). -/
def State.reset : State where
  v     := Vector.replicate 16 0
  i     := 0
  pc    := 0
  sp    := 0
  stack := Vector.replicate 16 0
  mem   := []
  fb    := Vector.replicate 32 0
  df    := false
  key   := Vector.replicate 16 false
  dt    := 0
  st    := 0
  beep  := false
  draws := 0

end Sys2Proof.Machine
end

