-- ==== Sys2Proof/Machine/Memory.lean ====
section
/-! DEFINITION. The memory of 4096 bytes (rules R16, R40 to R44): what an unlisted address reads as, reading and writing
one byte, blocks of bytes built from them, and the canonical form every write keeps. -/

namespace Sys2Proof.Machine

/-- The 80 font bytes of rule R124, glyph d at 5 * d: general knowledge of the spec, not its source's (log entry 3). -/
def classicFont : List Byte :=
  [0xF0, 0x90, 0x90, 0x90, 0xF0,  0x20, 0x60, 0x20, 0x20, 0x70,
   0xF0, 0x10, 0xF0, 0x80, 0xF0,  0xF0, 0x10, 0xF0, 0x10, 0xF0] ++
  [0x90, 0x90, 0xF0, 0x10, 0x10,  0xF0, 0x80, 0xF0, 0x10, 0xF0,
   0xF0, 0x80, 0xF0, 0x90, 0xF0,  0xF0, 0x10, 0x20, 0x40, 0x40] ++
  [0xF0, 0x90, 0xF0, 0x90, 0xF0,  0xF0, 0x90, 0xF0, 0x10, 0xF0,
   0xF0, 0x90, 0xF0, 0x90, 0x90,  0xE0, 0x90, 0xE0, 0x90, 0xE0] ++
  [0xF0, 0x80, 0x80, 0x80, 0xF0,  0xE0, 0x90, 0x90, 0x90, 0xE0,
   0xF0, 0x80, 0xF0, 0x80, 0xF0,  0xF0, 0x80, 0xF0, 0x80, 0x80]

/-- What an address that memory does not list reads as: its contents after reset (rule R16), the font below 0x050 and,
for the bytes the spec leaves open (MEM_INIT), 0. DESIGN CHOICE, unsafe (log entry 1). -/
def unlistedByte (a : Nat) : Byte := classicFont.getD a 0

/-- The byte at address `a`. Total: the bound of rule R43 is the caller's (`memRead`, `outOfRange`). -/
def Memory.read : Memory → Nat → Byte
  | [], a => unlistedByte a
  | (b, w) :: m, a => if a = b then w else Memory.read m a

/-- `m` with address `a` unlisted. -/
def Memory.erase (m : Memory) (a : Nat) : Memory := m.filter (fun c => c.1 ≠ a)

/-- `m` with the entry (a, w) before the first higher address. -/
def Memory.insert : Memory → Nat → Byte → Memory
  | [], a, w => [(a, w)]
  | (b, u) :: m, a, w => if a < b then (a, w) :: (b, u) :: m else (b, u) :: Memory.insert m a w

/-- `MEM[a] <- w` (rule R42), in canonical form: a byte the unlisted address reads as anyway is not listed. An address
from 4096 on does not exist: the write is then no write, and every meaning faults before it comes to that. -/
def Memory.write (m : Memory) (a : Nat) (w : Byte) : Memory :=
  if a < Config.memSize then
    if w = unlistedByte a then m.erase a else (m.erase a).insert a w
  else m

/-- One-byte writes at consecutive ascending addresses (rule R44). -/
def Memory.writeBytes (m : Memory) (a : Nat) : List Byte → Memory
  | [] => m
  | w :: ws => Memory.writeBytes (m.write a w) (a + 1) ws

/-- One-byte reads at `len` consecutive ascending addresses (rule R44). -/
def Memory.readBytes (m : Memory) (a len : Nat) : List Byte :=
  (List.range len).map (fun k => m.read (a + k))

/-- The canonical form above a bound: addresses rise strictly from `lo`, stay below 4096, and no entry equals what its
address reads as unlisted. -/
def Memory.wfFrom (lo : Nat) : Memory → Bool
  | [] => true
  | (a, w) :: m => lo ≤ a && a < Config.memSize && w != unlistedByte a && Memory.wfFrom (a + 1) m

/-- The canonical form: equal memories are equal lists. -/
def Memory.wf (m : Memory) : Bool := Memory.wfFrom 0 m

/-- The memory whose byte at every address below 4096 is `f` of it. -/
def Memory.ofContents (f : Nat → Byte) : Memory :=
  (List.range Config.memSize).filterMap (fun a => if f a = unlistedByte a then none else some (a, f a))

end Sys2Proof.Machine
end

