-- ==== Sys2Proof/Machine/Ops.lean ====
section
/-! DEFINITION. The named operations over registers, program counter, stack, memory and framebuffer that the meanings are
written with, and raising a fault. Each field has one setter, and the meanings change the state through these only. -/

namespace Sys2Proof.Machine

/-! ## One setter per field -/

def State.setV     (s : State) (v : Vector Byte 16) : State := { s with v := v }
def State.setI     (s : State) (i : Word) : State := { s with i := i }
def State.setPc    (s : State) (pc : Word) : State := { s with pc := pc }
def State.setSp    (s : State) (sp : Fin 17) : State := { s with sp := sp }
def State.setStack (s : State) (stack : Vector Word 16) : State := { s with stack := stack }
def State.setMem   (s : State) (mem : Memory) : State := { s with mem := mem }
def State.setFb    (s : State) (fb : FrameBuffer) : State := { s with fb := fb }
def State.setDf    (s : State) (df : Bool) : State := { s with df := df }
def State.setKeys  (s : State) (key : Vector Bool 16) : State := { s with key := key }
def State.setDt    (s : State) (dt : Byte) : State := { s with dt := dt }
def State.setSt    (s : State) (st : Byte) : State := { s with st := st }
def State.setBeep  (s : State) (beep : Bool) : State := { s with beep := beep }
def State.setDraws (s : State) (draws : Nat) : State := { s with draws := draws }

/-! ## Registers and program counter -/

/-- `V[r]` (rule R10). None of the sixteen is hard-wired. -/
def State.readV (s : State) (r : Reg) : Byte := s.v[r.toNat]'(r.isLt)

/-- `V[r] <- b` (rule R10). -/
def State.writeV (s : State) (r : Reg) (b : Byte) : State := s.setV (s.v.set r.toNat b (r.isLt))

/-- `V[k] <- f k` for k = 0 .. n - 1, ascending (rule R126). -/
def State.writeBlock (s : State) (f : Nat → Byte) : Nat → State
  | 0 => s
  | n + 1 => (State.writeBlock s f n).writeV (BitVec.ofNat 4 n) (f n)

/-- The ordinary advance `pc <- PC + 2` (rule R67). -/
def State.advance (s : State) : State := s.setPc (s.pc + 2)

/-- A skip: `pc <- (taken ? PC + 4 : PC + 2)` (rules R67, R88). -/
def State.skipIf (s : State) (taken : Bool) : State := s.setPc (if taken then s.pc + 4 else s.pc + 2)

/-! ## Faults -/

/-- Taking a fault (rules R70, R176, R180): the step ends with it; nothing is saved, no mode changes, control goes
nowhere, and the state stays as it was before the step, so the answer carries none. There is no return from a fault
(R181) and hence no operation for one. -/
def raise (f : Fault) : Result := .fault f

/-- The numeric code of a fault (rule R170). -/
def Fault.code : Fault → Nat
  | .addressOutOfRange _ _ _ => 1
  | .stackOverflow _ _ => 2
  | .stackUnderflow _ _ => 3
  | .programTooLarge _ => 4

/-- The lowest out-of-range address among the `len` addresses from `a` up, when there is one (rules R55, R171):
`max(a, 4096)`. No access, no fault. -/
def outOfRange (a len : Nat) : Option Nat :=
  if 1 ≤ len ∧ Config.memSize ≤ a + len - 1 then some (max a Config.memSize) else none

/-- Run `k` when the `len` bytes from I up exist; else the instruction `i` faults before any write (rules R70, R176). The
fetched word is the instruction's own encoding (log entry 7). -/
def checkRange (i : Instr) (s : State) (len : Nat) (k : Result) : Result :=
  match outOfRange s.i.toNat len with
  | some addr => raise (.addressOutOfRange s.pc (some (encode i)) addr)
  | none => k

/-! ## Memory -/

/-- `MemRead(addr, 1)` (rule R41): the byte, or the out-of-range address. -/
def State.memRead (s : State) (addr : Nat) : Except Nat Byte :=
  if addr < Config.memSize then .ok (s.mem.read addr) else .error addr

/-- `MemWrite(I + k, 1, bytes[k])` for ascending k (rules R42, R44), after the range check. -/
def State.storeAtI (s : State) (bytes : List Byte) : State := s.setMem (s.mem.writeBytes s.i.toNat bytes)

/-! ## Stack -/

/-- `STACK[SP] <- w`, `SP <- SP + 1` (rules R14, R82). -/
def State.push (s : State) (w : Word) (h : s.sp.val < 16) : State :=
  (s.setStack (s.stack.set s.sp.val w h)).setSp ⟨s.sp.val + 1, Nat.succ_lt_succ h⟩

/-- `STACK[SP - 1]` (rules R14, R80). -/
def State.top (s : State) (h : 0 < s.sp.val) : Word :=
  s.stack[s.sp.val - 1]'(Nat.lt_of_lt_of_le (Nat.sub_lt h Nat.one_pos) (Nat.le_of_lt_succ s.sp.isLt))

/-- `SP <- SP - 1`; the popped entry stays as it was (rule R80). -/
def State.drop (s : State) : State := s.setSp ⟨s.sp.val - 1, Nat.lt_of_le_of_lt (Nat.sub_le ..) s.sp.isLt⟩

/-! ## Framebuffer and keypad -/

/-- `FB[y][x]` (rule R17). -/
def FrameBuffer.pixel (fb : FrameBuffer) (x : Fin 64) (y : Fin 32) : Bool := fb[y].getLsbD x

/-- `FB[y][x] <- FB[y][x] ^ 1` (rule R141). -/
def FrameBuffer.flip (fb : FrameBuffer) (x : Fin 64) (y : Fin 32) : FrameBuffer :=
  fb.set y.val (fb[y] ^^^ BitVec.twoPow 64 x) y.isLt

/-- All cells 0 (rule R140). -/
def FrameBuffer.clear : FrameBuffer := Vector.replicate 32 0

/-- `(n mod 64)`: a column (rule R141). -/
def column (n : Nat) : Fin 64 := Fin.ofNat 64 n

/-- `(n mod 32)`: a row (rule R141). -/
def line (n : Nat) : Fin 32 := Fin.ofNat 32 n

/-- One sprite bit: row byte `b` is row `r` of the sprite, column `c` is its bit 7 - c. Returns the framebuffer and the
collision so far (rule R141, log entry 18). -/
def drawBit (x0 y0 : Nat) (b : Byte) (r c : Nat) (acc : FrameBuffer × Bool) : FrameBuffer × Bool :=
  if b.getLsbD (7 - c) then
    (acc.1.flip (column (x0 + c)) (line (y0 + r)), acc.2 || acc.1.pixel (column (x0 + c)) (line (y0 + r)))
  else acc

/-- The eight columns of one sprite row, left to right (rule R141). -/
def drawRow (x0 y0 : Nat) (b : Byte) (r : Nat) (acc : FrameBuffer × Bool) : FrameBuffer × Bool :=
  (List.range 8).foldl (fun acc c => drawBit x0 y0 b r c acc) acc

/-- The rows of a sprite from row `r` on, top to bottom (rule R141). -/
def drawRows (x0 y0 : Nat) : Nat → List Byte → FrameBuffer × Bool → FrameBuffer × Bool
  | _, [], acc => acc
  | r, b :: bs, acc => drawRows x0 y0 (r + 1) bs (drawRow x0 y0 b r acc)

/-- A whole sprite: the new framebuffer and the collision (rule R141). -/
def drawSprite (x0 y0 : Nat) (rows : List Byte) (fb : FrameBuffer) : FrameBuffer × Bool :=
  drawRows x0 y0 0 rows (fb, false)

/-- `KEY[k]` (rule R19). -/
def State.keyDown (s : State) (k : KeyIx) : Bool := s.key[k.toNat]'(k.isLt)

/-- The least k with `KEY[k] = 1`, when there is one (rule R152, log entry 14). -/
def State.firstKey (s : State) : Option KeyIx :=
  ((List.range 16).map (BitVec.ofNat 4)).find? s.keyDown

/-! ## The random draw -/

/-- `RandomByte()` (rule R111): a free value, a fresh one at each draw (log entry 2). -/
def State.randomByte (s : State) : Byte := Config.randomByte s.draws

/-- The draw is used up. -/
def State.drawn (s : State) : State := s.setDraws (s.draws + 1)

end Sys2Proof.Machine
end

