-- ==== Sys2Proof/Machine/Flags.lean ====
section
/-! DEFINITION. Every flag computation of the spec (rules R11, R112): the carry, the two no-borrow flags, the bit a
shift moves out, FX1E's overflow above 0xFFF, and how a flag is put into VF. -/

namespace Sys2Proof.Machine

/-- A flag as the byte VF receives: 1 or 0 (rule R11). -/
def flagByte (b : Bool) : Byte := if b then 1 else 0

/-- The carry of `a + b`, taken before truncation (rule R106). -/
def carry (a b : Byte) : Bool := a.toNat + b.toNat > 255

/-- The no-borrow flag of `a - b`: 1 when the minuend is at least the subtrahend (rules R107, R109). -/
def noBorrow (a b : Byte) : Bool := a.toNat ≥ b.toNat

/-- The bit a right shift by one moves out (rule R108). -/
def outRight (a : Byte) : Bool := a.getLsbD 0

/-- The bit a left shift by one moves out (rule R110). -/
def outLeft (a : Byte) : Bool := a.getLsbD 7

/-- FX1E's flag, from the untruncated sum (rule R121, log entry 12). -/
def beyond12 (sum : Nat) : Bool := sum > 0xFFF

/-- `V[15] <- flag` (rule R11). -/
def State.writeFlag (s : State) (flag : Bool) : State := s.writeV VF (flagByte flag)

end Sys2Proof.Machine
end

