-- ==== Sys2Proof/Machine/Operands.lean ====
section
/-! DEFINITION. Every operand form of the spec beyond a register or an immediate as it stands (rules R55, R64): an
immediate address, a low nibble, the address of a glyph, the registers of a block, the decimal digits of a byte. -/

namespace Sys2Proof.Machine

/-- `zext_16(NNN)` (rule R64). -/
def addressOf (nnn : Imm12) : Word := nnn.setWidth 16

/-- `a & 0x0F`: the digit of FX29 and the key number of EX9E and EXA1 (rules R122, R150, log entry 13). -/
def lowNibble (a : Byte) : Nibble := a.setWidth 4

/-- `FONT_BASE + 5 * d`: the glyph of digit d (rule R122). -/
def glyphAddress (d : Nibble) : Word := BitVec.ofNat 16 (Config.fontBase + Config.glyphBytes * d.toNat)

/-- The registers V0 to VX, both included: X is a count, not a register's contents (rule R125). -/
def State.block (s : State) (x : Reg) : List Byte :=
  (List.range (x.toNat + 1)).map (fun k => s.readV (BitVec.ofNat 4 k))

/-- How many registers and bytes FX55 and FX65 move: X + 1 (rule R55). -/
def blockLength (x : Reg) : Nat := x.toNat + 1

/-- Hundreds, tens and units of a byte, one digit a byte (rule R123). -/
def decimalDigits (a : Byte) : List Byte :=
  [BitVec.ofNat 8 (a.toNat / 100), BitVec.ofNat 8 (a.toNat / 10 % 10), BitVec.ofNat 8 (a.toNat % 10)]

end Sys2Proof.Machine
end

