-- ==== Sys2Proof/Machine/Alu.lean ====
section
/-! DEFINITION. Register and ALU instructions (41_alu.md, rules R100 to R112). Operands are read before anything is
written; where a flag is written too it is written first, so with X = F the result remains (rule R24, log entry 9). -/

namespace Sys2Proof.Machine

/-- The end of an instruction that writes V[X] only. -/
def writeResult (x : Reg) (result : Byte) (s : State) : Result := .next (s.writeV x result).advance

/-- The end of an instruction that writes a flag and then V[X]. -/
def writeFlagResult (x : Reg) (flag : Bool) (result : Byte) (s : State) : Result :=
  .next ((s.writeFlag flag).writeV x result).advance

/-- 6XNN (rule R100). -/
def exec6XNN (x : Reg) (nn : Byte) (s : State) : Result := writeResult x nn s

/-- 7XNN (rule R101): modulo 256, no flag. -/
def exec7XNN (x : Reg) (nn : Byte) (s : State) : Result := writeResult x (s.readV x + nn) s

/-- 8XY0 (rule R102). -/
def exec8XY0 (x y : Reg) (s : State) : Result := writeResult x (s.readV y) s

/-- 8XY1 (rule R103): VF is not written as a flag. -/
def exec8XY1 (x y : Reg) (s : State) : Result := writeResult x (s.readV x ||| s.readV y) s

/-- 8XY2 (rule R104): VF is not written as a flag. -/
def exec8XY2 (x y : Reg) (s : State) : Result := writeResult x (s.readV x &&& s.readV y) s

/-- 8XY3 (rule R105): VF is not written as a flag. -/
def exec8XY3 (x y : Reg) (s : State) : Result := writeResult x (s.readV x ^^^ s.readV y) s

/-- 8XY4 (rule R106). -/
def exec8XY4 (x y : Reg) (s : State) : Result :=
  writeFlagResult x (carry (s.readV x) (s.readV y)) (s.readV x + s.readV y) s

/-- 8XY5 (rule R107). -/
def exec8XY5 (x y : Reg) (s : State) : Result :=
  writeFlagResult x (noBorrow (s.readV x) (s.readV y)) (s.readV x - s.readV y) s

/-- 8XY6 (rule R108): V[Y] is neither read nor written. -/
def exec8XY6 (x _y : Reg) (s : State) : Result :=
  writeFlagResult x (outRight (s.readV x)) (s.readV x >>> 1) s

/-- 8XY7 (rule R109). -/
def exec8XY7 (x y : Reg) (s : State) : Result :=
  writeFlagResult x (noBorrow (s.readV y) (s.readV x)) (s.readV y - s.readV x) s

/-- 8XYE (rule R110): V[Y] is neither read nor written. -/
def exec8XYE (x _y : Reg) (s : State) : Result :=
  writeFlagResult x (outLeft (s.readV x)) (s.readV x <<< 1) s

/-- CXNN (rule R111, log entry 2). -/
def execCXNN (x : Reg) (nn : Byte) (s : State) : Result := writeResult x (s.randomByte &&& nn) s.drawn

end Sys2Proof.Machine
end

