-- ==== Sys2Proof/Machine/Control.lean ====
section
/-! DEFINITION. Control transfer (40_control_flow.md, rules R80 to R88), and the no-op an unrecognized word executes as
(rule R66). -/

namespace Sys2Proof.Machine

/-- 00EE (rule R80, log entry 10): pop the address of the call and go on after it. -/
def exec00EE (s : State) : Result :=
  if h : 0 < s.sp.val then .next (s.drop.setPc (s.top h + 2))
  else raise (.stackUnderflow s.pc (encode .op00EE))

/-- 1NNN (rule R81). -/
def exec1NNN (nnn : Imm12) (s : State) : Result := .next (s.setPc (addressOf nnn))

/-- 2NNN (rule R82): the entry pushed is the address of this call itself. -/
def exec2NNN (nnn : Imm12) (s : State) : Result :=
  if h : s.sp.val < Config.stackDepth then .next ((s.push s.pc h).setPc (addressOf nnn))
  else raise (.stackOverflow s.pc (encode (.op2NNN nnn)))

/-- 3XNN (rule R84). -/
def exec3XNN (x : Reg) (nn : Byte) (s : State) : Result := .next (s.skipIf (s.readV x = nn))

/-- 4XNN (rule R85). -/
def exec4XNN (x : Reg) (nn : Byte) (s : State) : Result := .next (s.skipIf (s.readV x ≠ nn))

/-- 5XY0 (rule R86). -/
def exec5XY0 (x y : Reg) (s : State) : Result := .next (s.skipIf (s.readV x = s.readV y))

/-- 9XY0 (rule R87). -/
def exec9XY0 (x y : Reg) (s : State) : Result := .next (s.skipIf (s.readV x ≠ s.readV y))

/-- BNNN (rule R83): the sum is not truncated to 12 bits. -/
def execBNNN (nnn : Imm12) (s : State) : Result :=
  .next (s.setPc (addressOf nnn + (s.readV 0).setWidth 16))

/-- An unrecognized word (rule R66): `pc <- PC + 2`, nothing else. Its report is `stepReport`'s (log entry 5). -/
def execUnrecognized (s : State) : Result := .next s.advance

end Sys2Proof.Machine
end

