-- ==== Sys2Proof/Machine/Display.lean ====
section
/-! DEFINITION. Display instructions (43_display.md, rules R140, R141). -/

namespace Sys2Proof.Machine

/-- 00E0 (rule R140): VF is not written, DF is set on every execution. -/
def exec00E0 (s : State) : Result := .next ((s.setFb FrameBuffer.clear).setDf true).advance

/-- DXYN (rule R141): coordinates and I are read before VF is written, VF once with the final collision, DF always. -/
def execDXYN (x y : Reg) (n : Nibble) (s : State) : Result :=
  checkRange (.opDXYN x y n) s n.toNat
    (let drawn := drawSprite (s.readV x).toNat (s.readV y).toNat (s.mem.readBytes s.i.toNat n.toNat) s.fb
     .next (((s.setFb drawn.1).writeFlag drawn.2).setDf true).advance)

end Sys2Proof.Machine
end

