-- ==== Sys2Proof/Machine/IndexMemory.lean ====
section
/-! DEFINITION. Address register and memory instructions (42_index_memory.md, rules R120 to R126). The whole range of
addresses is checked before the first write (log entry 6). -/

namespace Sys2Proof.Machine

/-- ANNN (rule R120). -/
def execANNN (nnn : Imm12) (s : State) : Result := .next (s.setI (addressOf nnn)).advance

/-- FX1E (rule R121, log entry 12): I wraps modulo 65536, the flag is taken from the untruncated sum. -/
def execFX1E (x : Reg) (s : State) : Result :=
  let sum := s.i.toNat + (s.readV x).toNat
  .next ((s.setI (BitVec.ofNat 16 sum)).writeFlag (beyond12 sum)).advance

/-- FX29 (rule R122). -/
def execFX29 (x : Reg) (s : State) : Result := .next (s.setI (glyphAddress (lowNibble (s.readV x)))).advance

/-- FX33 (rule R123): I is not changed. -/
def execFX33 (x : Reg) (s : State) : Result :=
  checkRange (.opFX33 x) s 3 (.next (s.storeAtI (decimalDigits (s.readV x))).advance)

/-- `I <- I + X + 1`, the end of FX55 and FX65 (rules R125, R126). -/
def State.passBlock (s : State) (x : Reg) : State := s.setI (s.i + BitVec.ofNat 16 (blockLength x))

/-- FX55 (rule R125). -/
def execFX55 (x : Reg) (s : State) : Result :=
  checkRange (.opFX55 x) s (blockLength x) (.next ((s.storeAtI (s.block x)).passBlock x).advance)

/-- FX65 (rule R126): every byte is read from the state before. -/
def execFX65 (x : Reg) (s : State) : Result :=
  checkRange (.opFX65 x) s (blockLength x)
    (.next ((s.writeBlock (fun k => s.mem.read (s.i.toNat + k)) (blockLength x)).passBlock x).advance)

end Sys2Proof.Machine
end

