-- ==== Sys2Proof/Machine/KeypadTimers.lean ====
section
/-! DEFINITION. Keypad and timer instructions (44_keypad_timers.md, rules R150 to R156). -/

namespace Sys2Proof.Machine

/-- EX9E (rule R150, log entry 13): the key of V[X]'s low nibble. -/
def execEX9E (x : Reg) (s : State) : Result := .next (s.skipIf (s.keyDown (lowNibble (s.readV x))))

/-- EXA1 (rule R151, log entry 13). -/
def execEXA1 (x : Reg) (s : State) : Result := .next (s.skipIf (!s.keyDown (lowNibble (s.readV x))))

/-- FX0A (rule R152, log entry 14): with no key down the step is blocked, nothing is written and PC stays. -/
def execFX0A (x : Reg) (s : State) : Result :=
  match s.firstKey with
  | none => .next s
  | some k => writeResult x (k.setWidth 8) s

/-- FX07 (rule R153). -/
def execFX07 (x : Reg) (s : State) : Result := writeResult x s.dt s

/-- FX15 (rule R154). -/
def execFX15 (x : Reg) (s : State) : Result := .next (s.setDt (s.readV x)).advance

/-- FX18 (rule R155): BEEP is not written. -/
def execFX18 (x : Reg) (s : State) : Result := .next (s.setSt (s.readV x)).advance

end Sys2Proof.Machine
end

