-- ==== Sys2Proof/Machine/Fetch.lean ====
section
/-! DEFINITION. Fetching an instruction word (rules R45, R61), and putting one where the next step fetches it. -/

namespace Sys2Proof.Machine

/-- The word at PC, high byte first, or the address at which a read is out of range (rule R61). PC may be odd (R47). -/
def State.fetchWord (s : State) : Except Nat Word :=
  match s.memRead s.pc.toNat with
  | .error addr => .error addr
  | .ok hi =>
    match s.memRead (s.pc.toNat + 1) with
    | .error addr => .error addr
    | .ok lo => .ok (wordOf hi lo)

/-- The fault of a fetch that reads out of range; no word was fetched (rules R61, R177). -/
def fetchFault (s : State) (addr : Nat) : Fault := .addressOutOfRange s.pc none addr

/-- Can an instruction be fetched from PC (rule R61: exactly when PC is at most 0xFFE)? -/
def State.canFetch (s : State) : Bool := s.pc.toNat + 1 < Config.memSize

/-- The state with PC at PROG_BASE when nothing could be fetched from PC, and as it is otherwise (log entry 4). -/
def State.fetchable (s : State) : State :=
  if s.canFetch then s else s.setPc (BitVec.ofNat 16 Config.progBase)

/-- The state with `bytes` in memory from PC on. -/
def State.storeAtPc (s : State) (bytes : List Byte) : State := s.setMem (s.mem.writeBytes s.pc.toNat bytes)

end Sys2Proof.Machine
end

