-- ==== Sys2Proof/Machine/Step.lean ====
section
/-! DEFINITION. The `step()` operation (rules R5, R70): fetch, decode, execute. -/

namespace Sys2Proof.Machine

/-- One step (rule R70): a fetch that faults ends it; a word that is no instruction is a no-op (rule R66). -/
def step (s : State) : Host.Outcome State Fault Refusal :=
  match s.fetchWord with
  | .error addr => raise (fetchFault s addr)
  | .ok op =>
    match decode op with
    | .ok i => exec i s
    | .error _ => execUnrecognized s

/-- `s` with the table word `w` of `nbits` bits stored where the next step fetches: at PC, or at PROG_BASE with PC
there when nothing can be fetched from PC (log entry 4). -/
def State.withFetchWord (s : State) (nbits w : Nat) : State :=
  s.fetchable.storeAtPc (tableBytes nbits w)

end Sys2Proof.Machine
end

