-- ==== Sys2Proof/Machine/HostOps.lean ====
section
/-! DEFINITION. The host operations that read or write core state (rules R183 to R188, R200, R201), `step()` apart. -/

namespace Sys2Proof.Machine

/-- `MEM` after a reset: the font below 0x050, then MEM_INIT (rules R16, R200). A list that is too short is continued
with 0. -/
def resetContents (font memInit : List Byte) (a : Nat) : Byte :=
  if a < Config.fontSize then font.getD a 0 else memInit.getD (a - Config.fontSize) 0

/-- The state after `reset` (rules R25, R200) for ANY font and any MEM_INIT (the bytes from 0x050 on), which the spec
leaves open (D15, D16). `State.reset` is the case of the classic font and zeros (log entries 1, 3). -/
def State.resetWith (font memInit : List Byte) : State :=
  State.reset.setMem (Memory.ofContents (resetContents font memInit))

/-- `loadProgram(bytes)` (rule R201, log entry 19): the program bytes and PC, or `ProgramTooLarge` and nothing. -/
def loadProgram (bytes : List Byte) (s : State) : Result :=
  if programFits bytes then
    .next ((s.setMem (s.mem.writeBytes Config.progBase bytes)).setPc (BitVec.ofNat 16 Config.progBase))
  else raise (.programTooLarge bytes.length)

/-- A counter one lower, and never below 0 (rules R20, R21, R183). -/
def countDown (t : Byte) : Byte := if t = 0 then 0 else t - 1

/-- `tick()` (rules R183, R184): both timers, and the beep edge exactly when ST goes from 1 to 0. -/
def tick (s : State) : State :=
  ((s.setDt (countDown s.dt)).setSt (countDown s.st)).setBeep (s.st = 1)

/-- `KEY[k] <- pressed` (rule R185). -/
def State.writeKey (s : State) (k : KeyIx) (pressed : Bool) : State :=
  s.setKeys (s.key.set k.toNat pressed (k.isLt))

/-- `setKey(index, pressed)` (rule R185); an index above 15 is outside the contract (log entry 19). -/
def setKey (index : Nat) (pressed : Bool) (s : State) : Result :=
  if keyIndexOk index then .next (s.writeKey (BitVec.ofNat 4 index) pressed)
  else .refused (.keyIndexOutOfRange index)

/-- `isRedrawOwed()` (rule R186): the flag, and the state with the flag cleared. -/
def isRedrawOwed (s : State) : Bool × State := (s.df, s.setDf false)

/-- `pixelAt(x, y)` (rule R187); a cell outside the framebuffer is outside the contract (log entry 19). -/
def pixelAt (x y : Nat) (s : State) : Except Refusal Bool :=
  if pixelOk x y then .ok (s.fb.pixel (column x) (line y)) else .error (.pixelOutOfRange x y)

/-- `onBeepEdge()` (rule R188). -/
def onBeepEdge (s : State) : Bool := s.beep

end Sys2Proof.Machine
end

