-- ==== Sys2Proof/Machine/Report.lean ====
section
/-! DEFINITION. The result `step()` returns to the driver (rule R177). It is an output, not state (rules R23, R66), so it
is a function of the state the step starts from, beside `step`, which gives the next state (log entry 5). -/

namespace Sys2Proof.Machine

/-- The results of rule R177. -/
inductive StepReport where
  /-- One instruction executed. -/
  | ok
  /-- An unrecognized word was executed as a no-op. -/
  | unrecognized (op : Word)
  /-- FX0A found no key down: redo this step. -/
  | blocked
  /-- The step ended with a fault. -/
  | fault (f : Fault)
  /-- Not the spec's: an instruction without a meaning. No step answers it. -/
  | refused (r : Refusal)
  deriving DecidableEq, Repr

/-- Does the instruction block in this state (rule R152, the only condition: rule R5)? -/
def blocks (i : Instr) (s : State) : Bool :=
  match i with
  | .opFX0A _ => s.firstKey.isNone
  | _ => false

/-- The result of executing one instruction. -/
def execReport (i : Instr) (s : State) : StepReport :=
  match exec i s with
  | .next _ => if blocks i s then .blocked else .ok
  | .fault f => .fault f
  | .refused r => .refused r

/-- The result of `step()` in state `s` (rules R70, R177). -/
def stepReport (s : State) : StepReport :=
  match s.fetchWord with
  | .error addr => .fault (fetchFault s addr)
  | .ok op =>
    match decode op with
    | .ok i => execReport i s
    | .error _ => .unrecognized op

/-- The numeric code of a result that has one (rule R170): the report of an unrecognized word is code 0. -/
def StepReport.code : StepReport → Option Nat
  | .ok => none
  | .unrecognized _ => some 0
  | .blocked => none
  | .fault f => some f.code
  | .refused _ => none

end Sys2Proof.Machine
end

