-- ==== Sys2Proof/Machine/Session.lean ====
section
/-! DEFINITION. The core as the host drives it (rules R3, R189, R202): any finite or infinite sequence of whole operations,
each atomic, under the host's duties. A fault leaves the core as it was and the sequence goes on (rules R174, R176, R181);
what breaks a duty is refused by name (log entries 19, 20). -/

namespace Sys2Proof.Machine

/-- Has a program been loaded since the last reset (rule R202)? The host's knowledge, not core state. -/
inductive Phase where
  /-- After `reset`. -/
  | fresh
  /-- After a successful `loadProgram`. -/
  | ready
  deriving DecidableEq, Repr

/-- A core in the hands of a host. -/
structure Session where
  phase : Phase
  state : State
  deriving DecidableEq, Repr

/-- The operations of rule R3. `reset` says what it leaves in memory, which the spec leaves open (D15, D16). -/
inductive HostOp where
  | reset (font memInit : List Byte)
  | loadProgram (bytes : List Byte)
  | step
  | tick
  | setKey (index : Nat) (pressed : Bool)
  | isRedrawOwed
  | pixelAt (x y : Nat)
  | onBeepEdge
  deriving DecidableEq, Repr

/-- What `loadProgram` returns (rules R174, R189, R201). -/
inductive LoadReport where
  | ok
  | programTooLarge
  deriving DecidableEq, Repr

/-- What an operation gives back to the host (rule R189). -/
inductive Reply where
  | nothing
  | bool (b : Bool)
  | report (r : StepReport)
  | loaded (r : LoadReport)
  deriving DecidableEq, Repr

/-- An operation on the core's state, inside a session: a fault and a refusal pass through. -/
def Session.lift (phase : Phase) : Result → Host.Outcome Session Fault Refusal
  | .next s => .next ⟨phase, s⟩
  | .fault f => .fault f
  | .refused r => .refused r

/-- One host operation (rules R3, R189, R202). A reset starts over in every respect but the random draws, which stay
fresh (log entry 2). -/
def Session.apply (p : Session) : HostOp → Host.Outcome Session Fault Refusal
  | .reset font memInit => .next ⟨.fresh, (State.resetWith font memInit).setDraws p.state.draws⟩
  | .loadProgram bytes =>
    match p.phase with
    | .fresh => Session.lift .ready (Machine.loadProgram bytes p.state)
    | .ready => .refused .loadDuringRun
  | .step =>
    match p.phase with
    | .fresh => .refused .stepBeforeLoad
    | .ready => Session.lift .ready (Machine.step p.state)
  | .tick => .next ⟨p.phase, Machine.tick p.state⟩
  | .setKey index pressed => Session.lift p.phase (Machine.setKey index pressed p.state)
  | .isRedrawOwed => .next ⟨p.phase, (Machine.isRedrawOwed p.state).2⟩
  | .pixelAt x y =>
    match Machine.pixelAt x y p.state with
    | .ok _ => .next p
    | .error r => .refused r
  | .onBeepEdge => .next p

/-- The value `loadProgram(bytes)` returns (rule R201). -/
def loadReport (bytes : List Byte) : LoadReport := if programFits bytes then .ok else .programTooLarge

/-- What the host gets back from an operation (rules R177, R186 to R189, R201). -/
def Session.reply (p : Session) : HostOp → Reply
  | .step => .report (stepReport p.state)
  | .isRedrawOwed => .bool (Machine.isRedrawOwed p.state).1
  | .pixelAt x y =>
    match Machine.pixelAt x y p.state with
    | .ok b => .bool b
    | .error _ => .nothing
  | .onBeepEdge => .bool (Machine.onBeepEdge p.state)
  | .loadProgram bytes => .loaded (loadReport bytes)
  | .reset _ _ => .nothing
  | .tick => .nothing
  | .setKey _ _ => .nothing

/-- One operation with all that comes of it: the session it leaves and what the host gets back. A fault, of a step or of a
load, leaves the session as it was (rules R174, R176): the host may go on with any operation (rule R181). Only a broken
duty of the host has no result. -/
def Session.perform (p : Session) (o : HostOp) : Except Refusal (Session × Reply) :=
  match p.apply o with
  | .next q => .ok (q, p.reply o)
  | .fault _ => .ok (p, p.reply o)
  | .refused r => .error r

/-- A finite sequence of operations (rule R3): the session at its end and the replies, in order. -/
def Session.run (p : Session) : List HostOp → Except Refusal (Session × List Reply)
  | [] => .ok (p, [])
  | o :: os =>
    match p.perform o with
    | .error r => .error r
    | .ok (q, reply) =>
      match Session.run q os with
      | .error r => .error r
      | .ok (last, replies) => .ok (last, reply :: replies)

/-- An infinite sequence of operations (rule R3): operation `n` is the schedule's `n`-th, from 0. The host's input, not
state. -/
abbrev Schedule := Nat → HostOp

/-- The session before operation `n` of an infinite sequence. -/
def Session.before (p : Session) (ops : Schedule) : Nat → Except Refusal Session
  | 0 => .ok p
  | n + 1 =>
    match Session.before p ops n with
    | .error r => .error r
    | .ok q =>
      match q.perform (ops n) with
      | .error r => .error r
      | .ok (q', _) => .ok q'

/-- The session right after the first reset. -/
def Session.start (font memInit : List Byte) : Session := ⟨.fresh, State.resetWith font memInit⟩

end Sys2Proof.Machine
end

