-- ==== Sys2Proof/Safety.lean ====
section
/-! DEFINITION. The terms claims are stated in: the parts of the state and what an instruction may write of them (rule
R26), the invariant of every reachable state (rule R27), reachability under any host (rule R3), a safe run, and the end
of a run (rule R203). -/

namespace Sys2Proof.Machine

/-- One piece of state: one register, one stack entry, one byte of memory, one cell, one key, or a whole small item. -/
inductive Part where
  | v (r : Reg)
  | i
  | pc
  | sp
  | stack (k : Fin 16)
  | mem (a : Nat)
  | cell (x : Fin 64) (y : Fin 32)
  | df
  | key (k : KeyIx)
  | dt
  | st
  | beep
  | draws
  deriving DecidableEq, Repr

/-- The two states agree on one piece of state; memory is compared by reading the byte. -/
def SamePart (s t : State) : Part → Prop
  | .v r => t.readV r = s.readV r
  | .i => t.i = s.i
  | .pc => t.pc = s.pc
  | .sp => t.sp = s.sp
  | .stack k => t.stack[k] = s.stack[k]
  | .mem a => t.mem.read a = s.mem.read a
  | .cell x y => t.fb.pixel x y = s.fb.pixel x y
  | .df => t.df = s.df
  | .key k => t.keyDown k = s.keyDown k
  | .dt => t.dt = s.dt
  | .st => t.st = s.st
  | .beep => t.beep = s.beep
  | .draws => t.draws = s.draws

/-- From `s` to `t` nothing changed but the pieces of state that `written` names. -/
def Frame (s t : State) (written : Part → Prop) : Prop := ∀ p, ¬ written p → SamePart s t p

/-- The encoding line of an instruction's rule: every word with those fixed bits decodes to it, with its operands in
their fields (rules R63, R65, R71). -/
def EncodedAs (mask pattern : Word) (i : Word → Instr) : Prop :=
  ∀ w : Word, w &&& mask = pattern → decode w = .ok (i w)

/-- The instructions that write VF as a flag, a closed list (rule R11). -/
def writesFlag : Instr → Bool
  | .op8XY4 _ _ | .op8XY5 _ _ | .op8XY6 _ _ | .op8XY7 _ _ | .op8XYE _ _ | .opFX1E _ | .opDXYN _ _ _ => true
  | .op00E0 | .op00EE | .op1NNN _ | .op2NNN _ | .op3XNN _ _ | .op4XNN _ _ | .op5XY0 _ _ | .op9XY0 _ _ | .op6XNN _ _
  | .op7XNN _ _ | .op8XY0 _ _ | .op8XY1 _ _ | .op8XY2 _ _ | .op8XY3 _ _ | .opANNN _ | .opBNNN _ | .opCXNN _ _
  | .opEX9E _ | .opEXA1 _ | .opFX07 _ | .opFX0A _ | .opFX15 _ | .opFX18 _ | .opFX29 _ | .opFX33 _ | .opFX55 _
  | .opFX65 _ => false

/-- The general registers an instruction names as its destination: V[X], or V0 to VX for FX65 (rule R26, "written
by" of V[X] and of the block). -/
def destination : Instr → Reg → Prop
  | .op6XNN x _ | .op7XNN x _ | .op8XY0 x _ | .op8XY1 x _ | .op8XY2 x _ | .op8XY3 x _ | .op8XY4 x _ | .op8XY5 x _
  | .op8XY6 x _ | .op8XY7 x _ | .op8XYE x _ | .opCXNN x _ | .opFX07 x | .opFX0A x => fun r => r = x
  | .opFX65 x => fun r => r.toNat ≤ x.toNat
  | .op00E0 | .op00EE | .op1NNN _ | .op2NNN _ | .op3XNN _ _ | .op4XNN _ _ | .op5XY0 _ _ | .op9XY0 _ _ | .opANNN _
  | .opBNNN _ | .opDXYN _ _ _ | .opEX9E _ | .opEXA1 _ | .opFX15 _ | .opFX18 _ | .opFX1E _ | .opFX29 _ | .opFX33 _
  | .opFX55 _ => fun _ => False

/-- The instructions whose rule gives PC something else than `PC + 2` in some case (rule R67): jumps, call and return,
the six skips, and the key wait. -/
def redirects : Instr → Bool
  | .op00EE | .op1NNN _ | .op2NNN _ | .opBNNN _ | .op3XNN _ _ | .op4XNN _ _ | .op5XY0 _ _ | .op9XY0 _ _ | .opEX9E _
  | .opEXA1 _ | .opFX0A _ => true
  | .op00E0 | .op6XNN _ _ | .op7XNN _ _ | .op8XY0 _ _ | .op8XY1 _ _ | .op8XY2 _ _ | .op8XY3 _ _ | .op8XY4 _ _
  | .op8XY5 _ _ | .op8XY6 _ _ | .op8XY7 _ _ | .op8XYE _ _ | .opANNN _ | .opCXNN _ _ | .opDXYN _ _ _ | .opFX07 _
  | .opFX15 _ | .opFX18 _ | .opFX1E _ | .opFX29 _ | .opFX33 _ | .opFX55 _ | .opFX65 _ => false

/-- How many bytes from I up an instruction reads or stores (rule R55): DXYN N, FX33 three, FX55 and FX65 X + 1. -/
def accessedBytes : Instr → Nat
  | .opDXYN _ _ n => n.toNat
  | .opFX33 _ => 3
  | .opFX55 x | .opFX65 x => x.toNat + 1
  | .op00E0 | .op00EE | .op1NNN _ | .op2NNN _ | .op3XNN _ _ | .op4XNN _ _ | .op5XY0 _ _ | .op9XY0 _ _ | .op6XNN _ _
  | .op7XNN _ _ | .op8XY0 _ _ | .op8XY1 _ _ | .op8XY2 _ _ | .op8XY3 _ _ | .op8XY4 _ _ | .op8XY5 _ _ | .op8XY6 _ _
  | .op8XY7 _ _ | .op8XYE _ _ | .opANNN _ | .opBNNN _ | .opCXNN _ _ | .opEX9E _ | .opEXA1 _ | .opFX07 _ | .opFX0A _
  | .opFX15 _ | .opFX18 _ | .opFX1E _ | .opFX29 _ => 0

/-- How many bytes from I up an instruction stores: FX33 three, FX55 X + 1, every other none (rules R26, R55). -/
def storedBytes : Instr → Nat
  | .opFX33 _ => 3
  | .opFX55 x => blockLength x
  | .op00E0 | .op00EE | .op1NNN _ | .op2NNN _ | .op3XNN _ _ | .op4XNN _ _ | .op5XY0 _ _ | .op9XY0 _ _ | .op6XNN _ _
  | .op7XNN _ _ | .op8XY0 _ _ | .op8XY1 _ _ | .op8XY2 _ _ | .op8XY3 _ _ | .op8XY4 _ _ | .op8XY5 _ _ | .op8XY6 _ _
  | .op8XY7 _ _ | .op8XYE _ _ | .opANNN _ | .opBNNN _ | .opCXNN _ _ | .opDXYN _ _ _ | .opEX9E _ | .opEXA1 _
  | .opFX07 _ | .opFX0A _ | .opFX15 _ | .opFX18 _ | .opFX1E _ | .opFX29 _ | .opFX65 _ => 0

/-- The "written by" column of rule R26: may instruction `i`, run in state `s`, write this piece of state? Every
instruction writes PC; KEY and BEEP are written by none; `draws` is the model's own and only CXNN moves it. -/
def mayWrite (i : Instr) (s : State) : Part → Prop
  | .v r => destination i r ∨ (writesFlag i = true ∧ r = VF)
  | .i => (∃ nnn, i = .opANNN nnn) ∨ ∃ x, i = .opFX1E x ∨ i = .opFX29 x ∨ i = .opFX55 x ∨ i = .opFX65 x
  | .pc => True
  | .sp => i = .op00EE ∨ ∃ nnn, i = .op2NNN nnn
  | .stack k => (∃ nnn, i = .op2NNN nnn) ∧ k.val = s.sp.val
  | .mem a => s.i.toNat ≤ a ∧ a < s.i.toNat + storedBytes i
  | .cell _ _ => i = .op00E0 ∨ ∃ x y n, i = .opDXYN x y n
  | .df => i = .op00E0 ∨ ∃ x y n, i = .opDXYN x y n
  | .key _ => False
  | .dt => ∃ x, i = .opFX15 x
  | .st => ∃ x, i = .opFX18 x
  | .beep => False
  | .draws => ∃ x nn, i = .opCXNN x nn

/-- What every reachable state keeps (rule R27): memory in canonical form, every stack entry 0 or an address an
instruction can be fetched from (R15), PC at most 0x10FE (R13). SP is at most 16 and the timers are bytes by their
types. -/
structure State.Inv (s : State) : Prop where
  memory : s.mem.wf = true
  stack  : ∀ k : Fin 16, s.stack[k].toNat ≤ 0xFFE
  pc     : s.pc.toNat ≤ 0x10FE

/-- The sessions some host can bring about: any sequence of admitted operations after a first reset (rules R3, R189). An
operation that faults leaves the session it found, so it brings about no other one. -/
inductive Session.Reachable : Session → Prop where
  | start (font memInit : List Byte) : Session.Reachable (Session.start font memInit)
  | op {p q : Session} (o : HostOp) : Session.Reachable p → p.apply o = .next q → Session.Reachable q

/-- The host keeps its duties over a whole infinite sequence of operations (rules R3, R189). -/
def Session.Admits (p : Session) (ops : Schedule) : Prop := ∀ n, ∃ q, p.before ops n = .ok q

/-- Does a reply report a fault (rules R170, R177, R201)? -/
def Reply.isFault : Reply → Bool
  | .report (.fault _) | .loaded .programTooLarge => true
  | .report .ok | .report (.unrecognized _) | .report .blocked | .report (.refused _) | .loaded .ok | .nothing
  | .bool _ => false

/-- A safe run: the operations complete without breaking a duty of the host, and none of them reports a fault. -/
def Session.Safe (p : Session) (ops : List HostOp) : Prop :=
  ∃ q replies, p.run ops = .ok (q, replies) ∧ ∀ a ∈ replies, a.isFault = false

/-- The end of a run by the convention of rule R203: PC addresses a jump to itself, at HALT_PC (log entry 21). -/
def State.endedAt (haltPc : Imm12) (s : State) : Prop :=
  s.pc = addressOf haltPc ∧ s.fetchWord = .ok (encode (.op1NNN haltPc))

end Sys2Proof.Machine
end

