-- ==== Sys2Proof/Certificates/Slice0/Obligations.lean ====
section
/-! DEFINITION. The statements for the provers. Each docstring names the rule it formalises; where a clause rests on a
choice of the model's or a decision the spec marks as its own, the docstring says so and names the log entry. -/

open Sys2Proof Sys2Proof.Machine

/-! ## Encoding and decoding -/

/-- Rules R62, R63, R68: decoding the word of any instruction gives it back, with every operand at every value. -/
def Obligations.DecodeOfEncode : Prop := ∀ i : Instr, decode (encode i) = .ok i

/-- Rules R62, R63, R68: a word has one meaning, and every bit of it is kept: the instruction's word is that word. -/
def Obligations.EncodeOfDecode : Prop := ∀ (w : Word) (i : Instr), decode w = .ok i → encode i = w

/-- Rule R65: a word decodes to an instruction of a row exactly when it has the row's fixed bits. That every literal
digit must match is the spec's decision D14 (log entry 8). -/
def Obligations.DecodeFollowsOpcodeMap : Prop :=
  ∀ (w : Word) (row : OpRow), row ∈ opcodeTable →
    (w &&& row.mask = row.pattern ↔ ∃ i, decode w = .ok i ∧ i.row = row)

/-- Rule R66: the words the decoder refuses are exactly those of the rule's table of unrecognized words, and it refuses
them under their own name. The table is marked derived in the spec and rests on decision D14 (log entry 8). -/
def Obligations.RefusedWordsAreTheUnrecognizedOnes : Prop :=
  ∀ w : Word, decode w = .error (.unrecognized w) ↔ wordWellFormed w = false

/-- Sanity: words written out from the encodings of rule R68 decode to what they stand for (95_test_vectors.md T1). -/
def Obligations.WordsWrittenOutDecode : Prop :=
  decode 0b0000000011100000 = .ok .op00E0 ∧
  decode 0b0001101010111100 = .ok (.op1NNN 0xABC) ∧
  decode 0b0101000100100000 = .ok (.op5XY0 1 2) ∧
  decode 0b1000000100101110 = .ok (.op8XYE 1 2) ∧
  decode 0b1101011110100101 = .ok (.opDXYN 7 0xA 5) ∧
  decode 0b1110000010011110 = .ok (.opEX9E 0) ∧
  decode 0b1111111001100101 = .ok (.opFX65 0xE) ∧
  decode 0b0101000100100001 = .error (.unrecognized 0x5121)

/-! ## The step -/

/-- Rules R45, R61: from PC at most 0xFFE the fetched word is `hi * 256 + lo` of the two bytes at PC, at any parity of
PC; from 0xFFF the second read faults at 0x1000, from above the first read faults at PC. That the fault carries PC,
and no word, is the spec's decision D13 (log entry 7). -/
def Obligations.FetchReadsBigEndianWordOrFaults : Prop :=
  ∀ s : State,
    (s.pc.toNat ≤ 0xFFE → ∃ w, s.fetchWord = .ok w ∧
      w.toNat = (s.mem.read s.pc.toNat).toNat * 256 + (s.mem.read (s.pc.toNat + 1)).toNat) ∧
    (s.pc.toNat = 0xFFF → step s = .fault (.addressOutOfRange s.pc none 0x1000)) ∧
    (0x1000 ≤ s.pc.toNat → step s = .fault (.addressOutOfRange s.pc none s.pc.toNat))

/-- Rule R70: when the bytes at PC, high byte first, decode to an instruction, the step is that instruction's. -/
def Obligations.StepRunsDecodedInstruction : Prop :=
  ∀ (s : State) (i : Instr), s.pc.toNat ≤ 0xFFE →
    decodeBytes [s.mem.read s.pc.toNat, s.mem.read (s.pc.toNat + 1)] = .ok (i, []) → step s = exec i s

/-- Rule R66: an unrecognized word moves PC on by 2, changes nothing else, and is reported under its own number. That
the report is the step's result is the spec's decision D26 (log entry 5), which words they are rests on D14 (log 8). -/
def Obligations.UnrecognizedWordIsReportedNoOp : Prop :=
  ∀ (s : State) (w : Word), s.fetchWord = .ok w → wordWellFormed w = false →
    stepReport s = .unrecognized w ∧
    ∃ t, step s = .next t ∧ t.pc = s.pc + 2 ∧ Frame s t (fun p => p = .pc)

/-- Rule R177: a step has one of four results, each with its change of state, and blocks exactly when it comes to FX0A
with no key down. The shape of the result is the spec's decision D13 (log entry 5). -/
def Obligations.StepHasOneOfFourResults : Prop :=
  ∀ s : State,
    ((∃ f, stepReport s = .fault f ∧ step s = .fault f) ∨
     (∃ w, stepReport s = .unrecognized w ∧ s.fetchWord = .ok w ∧ step s = .next (s.setPc (s.pc + 2))) ∨
     (stepReport s = .blocked ∧ step s = .next s) ∨
     (stepReport s = .ok ∧ ∃ t, step s = .next t)) ∧
    (stepReport s = .blocked ↔ ∃ x, s.fetchWord = .ok (encode (.opFX0A x)) ∧ ∀ k, s.keyDown k = false)

/-- Rules R5, R65: there is a next state or one of the spec's faults in every state; no step is refused. -/
def Obligations.StepIsNeverRefused : Prop := ∀ (s : State) (r : Refusal), step s ≠ .refused r

/-! ## Registers and ALU (41_alu.md) -/

/-- Rules R100, R102: 6XNN loads NN and 8XY0 copies V[Y], into VF as into any register; nothing else changes. -/
def Obligations.LoadImmediateAndCopy : Prop :=
  EncodedAs 0xF000 0x6000 (fun w => .op6XNN (fieldX w) (fieldNN w)) ∧
  EncodedAs 0xF00F 0x8000 (fun w => .op8XY0 (fieldX w) (fieldY w)) ∧
  ∀ (s : State) (x y : Reg) (nn : Byte),
    (∃ t, exec (.op6XNN x nn) s = .next t ∧ t.readV x = nn ∧ t.pc = s.pc + 2 ∧
      Frame s t (fun p => p = .v x ∨ p = .pc)) ∧
    (∃ t, exec (.op8XY0 x y) s = .next t ∧ t.readV x = s.readV y ∧ t.pc = s.pc + 2 ∧
      Frame s t (fun p => p = .v x ∨ p = .pc))

/-- Rule R101: 7XNN adds NN modulo 256 and touches no flag; with X = F the sum goes to VF as to any register. -/
def Obligations.AddImmediateLeavesFlag : Prop :=
  EncodedAs 0xF000 0x7000 (fun w => .op7XNN (fieldX w) (fieldNN w)) ∧
  ∀ (s : State) (x : Reg) (nn : Byte), ∃ t, exec (.op7XNN x nn) s = .next t ∧
    (t.readV x).toNat = ((s.readV x).toNat + nn.toNat) % 256 ∧ t.pc = s.pc + 2 ∧
    Frame s t (fun p => p = .v x ∨ p = .pc)

/-- Rules R103, R104, R105: 8XY1, 8XY2, 8XY3 are OR, AND, XOR bit by bit, and write VF only as a destination. -/
def Obligations.BitwiseOperations : Prop :=
  EncodedAs 0xF00F 0x8001 (fun w => .op8XY1 (fieldX w) (fieldY w)) ∧
  EncodedAs 0xF00F 0x8002 (fun w => .op8XY2 (fieldX w) (fieldY w)) ∧
  EncodedAs 0xF00F 0x8003 (fun w => .op8XY3 (fieldX w) (fieldY w)) ∧
  ∀ (s : State) (x y : Reg),
    (∃ t, exec (.op8XY1 x y) s = .next t ∧
      (∀ k < 8, (t.readV x).getLsbD k = ((s.readV x).getLsbD k || (s.readV y).getLsbD k)) ∧
      t.pc = s.pc + 2 ∧ Frame s t (fun p => p = .v x ∨ p = .pc)) ∧
    (∃ t, exec (.op8XY2 x y) s = .next t ∧
      (∀ k < 8, (t.readV x).getLsbD k = ((s.readV x).getLsbD k && (s.readV y).getLsbD k)) ∧
      t.pc = s.pc + 2 ∧ Frame s t (fun p => p = .v x ∨ p = .pc)) ∧
    (∃ t, exec (.op8XY3 x y) s = .next t ∧
      (∀ k < 8, (t.readV x).getLsbD k = ((s.readV x).getLsbD k ^^ (s.readV y).getLsbD k)) ∧
      t.pc = s.pc + 2 ∧ Frame s t (fun p => p = .v x ∨ p = .pc))

/-- Rule R106: 8XY4 adds modulo 256; VF is the carry, taken before truncation. That with X = F the sum is what remains
in VF is the spec's decision D3, conflict C3 (log entry 9). -/
def Obligations.AddWithCarry : Prop :=
  EncodedAs 0xF00F 0x8004 (fun w => .op8XY4 (fieldX w) (fieldY w)) ∧
  ∀ (s : State) (x y : Reg), ∃ t, exec (.op8XY4 x y) s = .next t ∧
    (t.readV x).toNat = ((s.readV x).toNat + (s.readV y).toNat) % 256 ∧
    (x ≠ VF → (t.readV VF).toNat = if (s.readV x).toNat + (s.readV y).toNat > 255 then 1 else 0) ∧
    t.pc = s.pc + 2 ∧ Frame s t (fun p => p = .v x ∨ p = .v VF ∨ p = .pc)

/-- Rules R107, R109: 8XY5 and 8XY7 subtract modulo 256; VF is 1 exactly when the minuend is at least the subtrahend, and
the difference itself with X = F. -/
def Obligations.SubtractWithNoBorrowFlag : Prop :=
  EncodedAs 0xF00F 0x8005 (fun w => .op8XY5 (fieldX w) (fieldY w)) ∧
  EncodedAs 0xF00F 0x8007 (fun w => .op8XY7 (fieldX w) (fieldY w)) ∧
  ∀ (s : State) (x y : Reg),
    (∃ t, exec (.op8XY5 x y) s = .next t ∧
      ((t.readV x).toNat : Int) = (((s.readV x).toNat : Int) - (s.readV y).toNat) % 256 ∧
      (x ≠ VF → (t.readV VF).toNat = if (s.readV x).toNat ≥ (s.readV y).toNat then 1 else 0) ∧
      t.pc = s.pc + 2 ∧ Frame s t (fun p => p = .v x ∨ p = .v VF ∨ p = .pc)) ∧
    (∃ t, exec (.op8XY7 x y) s = .next t ∧
      ((t.readV x).toNat : Int) = (((s.readV y).toNat : Int) - (s.readV x).toNat) % 256 ∧
      (x ≠ VF → (t.readV VF).toNat = if (s.readV y).toNat ≥ (s.readV x).toNat then 1 else 0) ∧
      t.pc = s.pc + 2 ∧ Frame s t (fun p => p = .v x ∨ p = .v VF ∨ p = .pc))

/-- Rules R108, R110: 8XY6 halves V[X] and 8XYE doubles it modulo 256; VF is the bit moved out, and the result itself with
X = F. The field Y changes nothing. -/
def Obligations.ShiftByOne : Prop :=
  EncodedAs 0xF00F 0x8006 (fun w => .op8XY6 (fieldX w) (fieldY w)) ∧
  EncodedAs 0xF00F 0x800E (fun w => .op8XYE (fieldX w) (fieldY w)) ∧
  ∀ (s : State) (x y : Reg),
    (∃ t, exec (.op8XY6 x y) s = .next t ∧ (t.readV x).toNat = (s.readV x).toNat / 2 ∧
      (x ≠ VF → (t.readV VF).toNat = (s.readV x).toNat % 2) ∧
      t.pc = s.pc + 2 ∧ Frame s t (fun p => p = .v x ∨ p = .v VF ∨ p = .pc)) ∧
    (∃ t, exec (.op8XYE x y) s = .next t ∧ (t.readV x).toNat = (s.readV x).toNat * 2 % 256 ∧
      (x ≠ VF → (t.readV VF).toNat = (s.readV x).toNat / 128) ∧
      t.pc = s.pc + 2 ∧ Frame s t (fun p => p = .v x ∨ p = .v VF ∨ p = .pc))

/-- Rule R111: CXNN puts a random byte, masked with NN, into V[X]; every bit outside NN is 0. The byte is the model's free
value at the counter `draws`, which moves on by one (log entry 2): it holds whatever the bytes are. -/
def Obligations.MaskedRandomByte : Prop :=
  EncodedAs 0xF000 0xC000 (fun w => .opCXNN (fieldX w) (fieldNN w)) ∧
  ∀ (s : State) (x : Reg) (nn : Byte), ∃ t, exec (.opCXNN x nn) s = .next t ∧
    (∀ k < 8, (t.readV x).getLsbD k = ((Config.randomByte s.draws).getLsbD k && nn.getLsbD k)) ∧
    t.draws = s.draws + 1 ∧ t.pc = s.pc + 2 ∧ Frame s t (fun p => p = .v x ∨ p = .pc ∨ p = .draws)

/-! ## Control transfer (40_control_flow.md) -/

/-- Rules R81, R83: 1NNN jumps to NNN, BNNN to NNN + V0 without truncation; neither checks the target. -/
def Obligations.JumpsWriteOnlyPc : Prop :=
  EncodedAs 0xF000 0x1000 (fun w => .op1NNN (fieldNNN w)) ∧
  EncodedAs 0xF000 0xB000 (fun w => .opBNNN (fieldNNN w)) ∧
  ∀ (s : State) (nnn : Imm12),
    (∃ t, exec (.op1NNN nnn) s = .next t ∧ t.pc.toNat = nnn.toNat ∧ Frame s t (fun p => p = .pc)) ∧
    (∃ t, exec (.opBNNN nnn) s = .next t ∧ t.pc.toNat = nnn.toNat + (s.readV 0).toNat ∧
      Frame s t (fun p => p = .pc))

/-- Rule R82: 2NNN pushes its own address and jumps to NNN while fewer than 16 entries are in use; with 16 it faults.
That the fault carries PC and the word is the spec's decision D13, that the word is the instruction's encoding is log
entry 7. -/
def Obligations.CallPushesOwnAddress : Prop :=
  EncodedAs 0xF000 0x2000 (fun w => .op2NNN (fieldNNN w)) ∧
  ∀ (s : State) (nnn : Imm12),
    (s.sp.val < 16 → ∃ t, exec (.op2NNN nnn) s = .next t ∧ t.sp.val = s.sp.val + 1 ∧
      (∀ k : Fin 16, k.val = s.sp.val → t.stack[k] = s.pc) ∧ t.pc.toNat = nnn.toNat ∧
      Frame s t (fun p => p = .pc ∨ p = .sp ∨ ∃ k : Fin 16, k.val = s.sp.val ∧ p = .stack k)) ∧
    (s.sp.val = 16 → exec (.op2NNN nnn) s = .fault (.stackOverflow s.pc (encode (.op2NNN nnn))))

/-- Rule R80: 00EE goes on two bytes after the call whose address is on top, leaves the popped entry as it was, and
faults on an empty stack. The advance by 2 is the spec's decision D5, conflict C4 (log entry 10); that the fault
carries PC and the word is its decision D13 (log entry 7). -/
def Obligations.ReturnGoesOnAfterTheCall : Prop :=
  EncodedAs 0xFFFF 0x00EE (fun _ => .op00EE) ∧
  ∀ s : State,
    (0 < s.sp.val → ∃ t, exec .op00EE s = .next t ∧ t.sp.val = s.sp.val - 1 ∧
      (∀ k : Fin 16, k.val = s.sp.val - 1 → t.pc = s.stack[k] + 2) ∧ Frame s t (fun p => p = .pc ∨ p = .sp)) ∧
    (s.sp.val = 0 → exec .op00EE s = .fault (.stackUnderflow s.pc 0x00EE))

/-- Rules R84 to R87: the four compare-and-skip instructions write PC only, by 4 when the condition holds, else by 2. -/
def Obligations.CompareAndSkip : Prop :=
  EncodedAs 0xF000 0x3000 (fun w => .op3XNN (fieldX w) (fieldNN w)) ∧
  EncodedAs 0xF000 0x4000 (fun w => .op4XNN (fieldX w) (fieldNN w)) ∧
  EncodedAs 0xF00F 0x5000 (fun w => .op5XY0 (fieldX w) (fieldY w)) ∧
  EncodedAs 0xF00F 0x9000 (fun w => .op9XY0 (fieldX w) (fieldY w)) ∧
  ∀ (s : State) (x y : Reg) (nn : Byte),
    (∃ t, exec (.op3XNN x nn) s = .next t ∧ t.pc = (if s.readV x = nn then s.pc + 4 else s.pc + 2) ∧
      Frame s t (fun p => p = .pc)) ∧
    (∃ t, exec (.op4XNN x nn) s = .next t ∧ t.pc = (if s.readV x = nn then s.pc + 2 else s.pc + 4) ∧
      Frame s t (fun p => p = .pc)) ∧
    (∃ t, exec (.op5XY0 x y) s = .next t ∧ t.pc = (if s.readV x = s.readV y then s.pc + 4 else s.pc + 2) ∧
      Frame s t (fun p => p = .pc)) ∧
    (∃ t, exec (.op9XY0 x y) s = .next t ∧ t.pc = (if s.readV x = s.readV y then s.pc + 2 else s.pc + 4) ∧
      Frame s t (fun p => p = .pc))

/-- 95_test_vectors.md S5 (the source's property): 00EE right after 2NNN at any NNN up to 0xFFE goes on after the call,
with the stack pointer as before. It rests on the spec's decision D5 (log entry 10). -/
def Obligations.CallThenReturn : Prop :=
  ∀ (s : State) (nnn : Imm12), s.fetchWord = .ok (encode (.op2NNN nnn)) → s.sp.val < 16 → nnn.toNat ≤ 0xFFE →
    s.mem.read nnn.toNat = 0x00 → s.mem.read (nnn.toNat + 1) = 0xEE →
    ∃ t u, step s = .next t ∧ step t = .next u ∧ u.pc = s.pc + 2 ∧ u.sp = s.sp ∧
      Frame s u (fun p => p = .pc ∨ ∃ k : Fin 16, k.val = s.sp.val ∧ p = .stack k)

/-! ## Address register and memory (42_index_memory.md) -/

/-- Rule R120: ANNN loads NNN, zero-extended. -/
def Obligations.LoadAddressRegister : Prop :=
  EncodedAs 0xF000 0xA000 (fun w => .opANNN (fieldNNN w)) ∧
  ∀ (s : State) (nnn : Imm12), ∃ t, exec (.opANNN nnn) s = .next t ∧ t.i.toNat = nnn.toNat ∧ t.pc = s.pc + 2 ∧
    Frame s t (fun p => p = .i ∨ p = .pc)

/-- Rule R121: FX1E adds V[X] to I modulo 65536; VF is 1 exactly when the untruncated sum exceeds 0xFFF, with X = F as well.
The wrap, and the flag at the wrap, are the spec's decision D7 (log entry 12). -/
def Obligations.AddToAddressRegister : Prop :=
  EncodedAs 0xF0FF 0xF01E (fun w => .opFX1E (fieldX w)) ∧
  ∀ (s : State) (x : Reg), ∃ t, exec (.opFX1E x) s = .next t ∧
    t.i.toNat = (s.i.toNat + (s.readV x).toNat) % 65536 ∧
    (t.readV VF).toNat = (if s.i.toNat + (s.readV x).toNat > 0xFFF then 1 else 0) ∧ t.pc = s.pc + 2 ∧
    Frame s t (fun p => p = .i ∨ p = .v VF ∨ p = .pc)

/-- Rule R122: FX29 points I at the five-byte glyph of V[X]'s low nibble. That the glyphs begin at 0 the spec derives
from its address map (R48). -/
def Obligations.GlyphAddress : Prop :=
  EncodedAs 0xF0FF 0xF029 (fun w => .opFX29 (fieldX w)) ∧
  ∀ (s : State) (x : Reg), ∃ t, exec (.opFX29 x) s = .next t ∧ t.i.toNat = 5 * ((s.readV x).toNat % 16) ∧
    t.pc = s.pc + 2 ∧ Frame s t (fun p => p = .i ∨ p = .pc)

/-- Rule R123: FX33 stores hundreds, tens and units of V[X] at I, I + 1, I + 2 and nothing else; with I above 0xFFD it
faults at the lowest address out of range. That it then writes nothing is the spec's decision D30 (log entry 6), the
address reported its decision D28 and the other fields its decision D13 (log entry 7). -/
def Obligations.StoreDecimalDigits : Prop :=
  EncodedAs 0xF0FF 0xF033 (fun w => .opFX33 (fieldX w)) ∧
  ∀ (s : State) (x : Reg),
    (s.i.toNat + 2 < 4096 → ∃ t, exec (.opFX33 x) s = .next t ∧
      (t.mem.read s.i.toNat).toNat = (s.readV x).toNat / 100 ∧
      (t.mem.read (s.i.toNat + 1)).toNat = (s.readV x).toNat / 10 % 10 ∧
      (t.mem.read (s.i.toNat + 2)).toNat = (s.readV x).toNat % 10 ∧ t.pc = s.pc + 2 ∧
      Frame s t (fun p => p = .pc ∨ ∃ k, k ≤ 2 ∧ p = .mem (s.i.toNat + k))) ∧
    (4096 ≤ s.i.toNat + 2 →
      exec (.opFX33 x) s = .fault (.addressOutOfRange s.pc (some (encode (.opFX33 x))) (max s.i.toNat 4096)))

/-- Rule R125: FX55 stores V0 to VX at I to I + X and nothing else, and moves I past the block; with I + X at 4096 or
above it faults. The same decisions as for FX33 (D13, D28, D30; log entries 6, 7). -/
def Obligations.StoreRegisterBlock : Prop :=
  EncodedAs 0xF0FF 0xF055 (fun w => .opFX55 (fieldX w)) ∧
  ∀ (s : State) (x : Reg),
    (s.i.toNat + x.toNat < 4096 → ∃ t, exec (.opFX55 x) s = .next t ∧
      (∀ r : Reg, r.toNat ≤ x.toNat → t.mem.read (s.i.toNat + r.toNat) = s.readV r) ∧
      t.i.toNat = s.i.toNat + x.toNat + 1 ∧ t.pc = s.pc + 2 ∧
      Frame s t (fun p => p = .i ∨ p = .pc ∨ ∃ k, k ≤ x.toNat ∧ p = .mem (s.i.toNat + k))) ∧
    (4096 ≤ s.i.toNat + x.toNat →
      exec (.opFX55 x) s = .fault (.addressOutOfRange s.pc (some (encode (.opFX55 x))) (max s.i.toNat 4096)))

/-- Rule R126: FX65 loads V0 to VX from I to I + X, leaves the higher registers and memory, and moves I past the
block; with I + X at 4096 or above it faults. The same decisions as for FX33 (D13, D28, D30; log entries 6, 7). -/
def Obligations.LoadRegisterBlock : Prop :=
  EncodedAs 0xF0FF 0xF065 (fun w => .opFX65 (fieldX w)) ∧
  ∀ (s : State) (x : Reg),
    (s.i.toNat + x.toNat < 4096 → ∃ t, exec (.opFX65 x) s = .next t ∧
      (∀ r : Reg, r.toNat ≤ x.toNat → t.readV r = s.mem.read (s.i.toNat + r.toNat)) ∧
      t.i.toNat = s.i.toNat + x.toNat + 1 ∧ t.pc = s.pc + 2 ∧
      Frame s t (fun p => p = .i ∨ p = .pc ∨ ∃ r : Reg, r.toNat ≤ x.toNat ∧ p = .v r)) ∧
    (4096 ≤ s.i.toNat + x.toNat →
      exec (.opFX65 x) s = .fault (.addressOutOfRange s.pc (some (encode (.opFX65 x))) (max s.i.toNat 4096)))

/-- 95_test_vectors.md S7 (the source's property): FX55, then FX65 with the same X and with I set back, restores V0 to VX
whatever the registers held in between, and I moves alike both times. -/
def Obligations.StoreThenLoadRestoresRegisters : Prop :=
  ∀ (s t : State) (x : Reg) (v : Vector Byte 16), exec (.opFX55 x) s = .next t →
    ∃ u, exec (.opFX65 x) ((t.setI s.i).setV v) = .next u ∧
      (∀ r : Reg, r.toNat ≤ x.toNat → u.readV r = s.readV r) ∧ u.i = t.i

/-- Rule R53, which the spec derives: stored bytes are what a later fetch from there reads. That a store to the font's
place lands as well is the spec's decision D17, conflict C6 (log entry 17). -/
def Obligations.StoredBytesAreFetched : Prop :=
  ∀ (s t : State) (x r : Reg) (pc : Word), exec (.opFX55 x) s = .next t → r.toNat < x.toNat →
    pc.toNat = s.i.toNat + r.toNat → (t.setPc pc).fetchWord = .ok (wordOf (s.readV r) (s.readV (r + 1)))

/-! ## Display (43_display.md) -/

/-- Rule R140: 00E0 turns every cell off and marks a redraw owed; VF and everything else stay. -/
def Obligations.ClearDisplay : Prop :=
  EncodedAs 0xFFFF 0x00E0 (fun _ => .op00E0) ∧
  ∀ s : State, ∃ t, exec .op00E0 s = .next t ∧ (∀ x y, t.fb.pixel x y = false) ∧ t.df = true ∧ t.pc = s.pc + 2 ∧
    Frame s t (fun p => p = .df ∨ p = .pc ∨ ∃ x y, p = .cell x y)

/-- Rule R141: DXYN turns over exactly the cells under a 1 of the sprite, wrapped one by one; VF is 1 exactly when a
lit cell was turned over; DF is set; with a row out of range it faults. N = 0 draws nothing (the spec's decision D29,
log entry 18); the check before drawing is its decision D30 (log entry 6), the address its decision D28 and the other
fields of the fault its decision D13 (log entry 7). -/
def Obligations.DrawSprite : Prop :=
  EncodedAs 0xF000 0xD000 (fun w => .opDXYN (fieldX w) (fieldY w) (fieldN w)) ∧
  ∀ (s : State) (x y : Reg) (n : Nibble),
    let covered (px : Fin 64) (py : Fin 32) : Prop :=
      ∃ r c, r < n.toNat ∧ c < 8 ∧ px.val = ((s.readV x).toNat + c) % 64 ∧ py.val = ((s.readV y).toNat + r) % 32 ∧
        (s.mem.read (s.i.toNat + r)).getLsbD (7 - c) = true
    (n.toNat = 0 ∨ s.i.toNat + n.toNat - 1 < 4096 → ∃ t, exec (.opDXYN x y n) s = .next t ∧
      (∀ px py, (covered px py → t.fb.pixel px py = !s.fb.pixel px py) ∧
        (¬ covered px py → t.fb.pixel px py = s.fb.pixel px py)) ∧
      ((∃ px py, covered px py ∧ s.fb.pixel px py = true) → t.readV VF = 1) ∧
      (¬ (∃ px py, covered px py ∧ s.fb.pixel px py = true) → t.readV VF = 0) ∧
      t.df = true ∧ t.pc = s.pc + 2 ∧
      Frame s t (fun p => p = .v VF ∨ p = .df ∨ p = .pc ∨ ∃ px py, p = .cell px py)) ∧
    (1 ≤ n.toNat → 4096 ≤ s.i.toNat + n.toNat - 1 →
      exec (.opDXYN x y n) s =
        .fault (.addressOutOfRange s.pc (some (encode (.opDXYN x y n))) (max s.i.toNat 4096)))

/-- Rule R141: drawing the same sprite twice at the same place restores the framebuffer, and when the sprite has any 1 bit
one of the two draws reports a collision, the second one when the screen was clear. The rule's own remark gives the second
draw a collision whatever was lit before, which its algorithm contradicts (log entry 23). VF is no coordinate, since the
first draw writes it. It rests on the check of decision D30 (log entry 6). -/
def Obligations.DrawingTwiceRestores : Prop :=
  ∀ (s t : State) (x y : Reg) (n : Nibble), x ≠ VF → y ≠ VF → exec (.opDXYN x y n) s = .next t →
    ∃ u, exec (.opDXYN x y n) t = .next u ∧ u.fb = s.fb ∧
      ((∃ r, r < n.toNat ∧ s.mem.read (s.i.toNat + r) ≠ 0) →
        (t.readV VF = 1 ∨ u.readV VF = 1) ∧ ((∀ px py, s.fb.pixel px py = false) → u.readV VF = 1))

/-! ## Keypad and timers (44_keypad_timers.md) -/

/-- Rules R150, R151: EX9E skips when the key of V[X]'s low nibble is down, EXA1 when it is not. The low nibble is the
spec's decision D8 (log entry 13). -/
def Obligations.KeySkips : Prop :=
  EncodedAs 0xF0FF 0xE09E (fun w => .opEX9E (fieldX w)) ∧
  EncodedAs 0xF0FF 0xE0A1 (fun w => .opEXA1 (fieldX w)) ∧
  ∀ (s : State) (x : Reg) (k : KeyIx), k.toNat = (s.readV x).toNat % 16 →
    (∃ t, exec (.opEX9E x) s = .next t ∧ t.pc = (if s.keyDown k = true then s.pc + 4 else s.pc + 2) ∧
      Frame s t (fun p => p = .pc)) ∧
    (∃ t, exec (.opEXA1 x) s = .next t ∧ t.pc = (if s.keyDown k = true then s.pc + 2 else s.pc + 4) ∧
      Frame s t (fun p => p = .pc))

/-- Rule R152: FX0A with a key down loads the number of the lowest one and goes on; with none it changes nothing at all, PC
included. Level and lowest key are the spec's decision D9 (log entry 14). -/
def Obligations.WaitForKey : Prop :=
  EncodedAs 0xF0FF 0xF00A (fun w => .opFX0A (fieldX w)) ∧
  ∀ (s : State) (x : Reg),
    (∀ k, s.keyDown k = true → (∀ j : KeyIx, j.toNat < k.toNat → s.keyDown j = false) →
      ∃ t, exec (.opFX0A x) s = .next t ∧ (t.readV x).toNat = k.toNat ∧ t.pc = s.pc + 2 ∧
        Frame s t (fun p => p = .v x ∨ p = .pc)) ∧
    ((∀ k, s.keyDown k = false) → exec (.opFX0A x) s = .next s)

/-- Rules R153, R154, R155: FX07 reads DT, FX15 and FX18 replace DT and ST by V[X]; BEEP is not written. -/
def Obligations.TimerMoves : Prop :=
  EncodedAs 0xF0FF 0xF007 (fun w => .opFX07 (fieldX w)) ∧
  EncodedAs 0xF0FF 0xF015 (fun w => .opFX15 (fieldX w)) ∧
  EncodedAs 0xF0FF 0xF018 (fun w => .opFX18 (fieldX w)) ∧
  ∀ (s : State) (x : Reg),
    (∃ t, exec (.opFX07 x) s = .next t ∧ t.readV x = s.dt ∧ t.pc = s.pc + 2 ∧
      Frame s t (fun p => p = .v x ∨ p = .pc)) ∧
    (∃ t, exec (.opFX15 x) s = .next t ∧ t.dt = s.readV x ∧ t.pc = s.pc + 2 ∧
      Frame s t (fun p => p = .dt ∨ p = .pc)) ∧
    (∃ t, exec (.opFX18 x) s = .next t ∧ t.st = s.readV x ∧ t.pc = s.pc + 2 ∧
      Frame s t (fun p => p = .st ∨ p = .pc))

/-! ## Whole-machine rules -/

/-- Rule R26, which the spec derives: no instruction writes a piece of state outside its row of the "written by" table. -/
def Obligations.InstructionsWriteOnlyTheirRow : Prop :=
  ∀ (i : Instr) (s t : State), exec i s = .next t → Frame s t (mayWrite i s)

/-- Rule R11: VF is read and written like any register; an instruction outside the flag list leaves it alone unless it
names it as destination; a flag is 0 or 1, and an instruction of the list writes one unless its result lands there. -/
def Obligations.FlagRegisterIsWrittenByItsList : Prop :=
  (∀ (s : State) (b : Byte), (s.writeV VF b).readV VF = b ∧ Frame s (s.writeV VF b) (fun p => p = .v VF)) ∧
  ∀ (i : Instr) (s t : State), exec i s = .next t → ¬ destination i VF →
    (writesFlag i = false → t.readV VF = s.readV VF) ∧
    (writesFlag i = true → t.readV VF = 0 ∨ t.readV VF = 1)

/-- Rules R67, R81 to R83: every instruction moves PC on by 2 but the jumps and the call (the target), 00EE (the
popped value plus 2), a skip (4 or 2) and a blocked FX0A (unchanged). The plus 2 of 00EE is conflict C4 (log entry
10); that FX0A goes on at once whenever a key is down is the spec's decision D9 (log entry 14). -/
def Obligations.ProgramCounterAdvance : Prop :=
  ∀ (i : Instr) (s t : State), exec i s = .next t →
    (redirects i = false → t.pc = s.pc + 2) ∧
    (∀ nnn, i = .op1NNN nnn ∨ i = .op2NNN nnn → t.pc.toNat = nnn.toNat) ∧
    (∀ nnn, i = .opBNNN nnn → t.pc.toNat = nnn.toNat + (s.readV 0).toNat) ∧
    (i = .op00EE → ∃ k : Fin 16, k.val + 1 = s.sp.val ∧ t.pc = s.stack[k] + 2) ∧
    (∀ x nn, i = .op3XNN x nn ∨ i = .op4XNN x nn → t.pc = s.pc + 2 ∨ t.pc = s.pc + 4) ∧
    (∀ x y, i = .op5XY0 x y ∨ i = .op9XY0 x y → t.pc = s.pc + 2 ∨ t.pc = s.pc + 4) ∧
    (∀ x, i = .opEX9E x ∨ i = .opEXA1 x → t.pc = s.pc + 2 ∨ t.pc = s.pc + 4) ∧
    (∀ x, i = .opFX0A x → t.pc = if ∀ k, s.keyDown k = false then s.pc else s.pc + 2)

/-- Rule R23: DF, BEEP and ST are what the host observes and no program can read: an instruction run in states that
differ only there ends alike, in states that differ only there, or in the same fault. For CXNN the two runs are given
the same random byte, an input of the step by the spec's decision D10: they have the same `draws`, and that equal
draws give equal bytes is the model's choice (log entry 2). -/
def Obligations.HostOnlyStateIsNotRead : Prop :=
  ∀ (i : Instr) (s : State) (df beep : Bool) (st : Byte),
    let s' := ((s.setDf df).setBeep beep).setSt st
    (∀ f, exec i s = .fault f ↔ exec i s' = .fault f) ∧
    (∀ t, exec i s = .next t → ∃ t', exec i s' = .next t' ∧
      Frame t t' (fun p => p = .df ∨ p = .beep ∨ p = .st))

/-! ## Faults (60_exceptions.md) -/

/-- Rules R172, R173: `StackOverflow` is raised by 2NNN with SP = 16 and by nothing else, `StackUnderflow` by 00EE with SP = 0
and by nothing else. -/
def Obligations.StackFaultsExactly : Prop :=
  ∀ (i : Instr) (s : State),
    ((∃ pc op, exec i s = .fault (.stackOverflow pc op)) ↔ (∃ nnn, i = .op2NNN nnn) ∧ s.sp.val = 16) ∧
    ((∃ pc op, exec i s = .fault (.stackUnderflow pc op)) ↔ i = .op00EE ∧ s.sp.val = 0)

/-- Rule R171: `AddressOutOfRange` is raised exactly when an access of the instruction would touch an address from 4096 on,
and carries PC, the fetched word and the lowest such address. The address and the fields are the spec's decisions D28 and
D13, that the word is the instruction's encoding is log entry 7. -/
def Obligations.AddressFaultsExactly : Prop :=
  ∀ (i : Instr) (s : State) (pc : Word) (op : Option Word) (addr : Nat),
    exec i s = .fault (.addressOutOfRange pc op addr) ↔
      1 ≤ accessedBytes i ∧ 4096 ≤ s.i.toNat + accessedBytes i - 1 ∧ pc = s.pc ∧ op = some (encode i) ∧
        addr = max s.i.toNat 4096

/-- Rule R174: `ProgramTooLarge` is `loadProgram`'s answer to more than 3584 bytes, and no step raises it. -/
def Obligations.ProgramTooLargeExactly : Prop :=
  (∀ (bytes : List Byte) (s : State),
    (∃ len, loadProgram bytes s = .fault (.programTooLarge len)) ↔ 3584 < bytes.length) ∧
  ∀ (s : State) (len : Nat), step s ≠ .fault (.programTooLarge len)

/-! ## Host operations, reset and load -/

/-- Rule R183: a tick takes 1 from each timer above 0 and leaves one at 0; BEEP is 1 exactly when ST was 1. The order
inside a tick and the beep bit are the spec's decisions D25 and D19 (log entry 15). -/
def Obligations.TickCountsDown : Prop :=
  ∀ s : State, (tick s).dt.toNat = s.dt.toNat - 1 ∧ (tick s).st.toNat = s.st.toNat - 1 ∧
    ((tick s).beep = true ↔ s.st.toNat = 1) ∧ Frame s (tick s) (fun p => p = .dt ∨ p = .st ∨ p = .beep)

/-- Rule R184: a sound timer of v, left alone, gives exactly one beep edge, on the v-th following tick. It rests on the
spec's decision D19 (log entry 15). -/
def Obligations.OneBeepEdge : Prop :=
  ∀ (s : State) (n : Nat), (tick^[n + 1] s).beep = true ↔ s.st.toNat = n + 1

/-- Rule R185: `setKey` writes one key of the latch and nothing else. That an index above 15 is refused is the spec's
decision D23 (log entry 19). -/
def Obligations.SetKeyWritesOneKey : Prop :=
  ∀ (s : State) (index : Nat) (pressed : Bool),
    (index ≤ 15 → ∃ t, setKey index pressed s = .next t ∧ (∀ k : KeyIx, k.toNat = index → t.keyDown k = pressed) ∧
      Frame s t (fun p => ∃ k : KeyIx, k.toNat = index ∧ p = .key k)) ∧
    (15 < index → setKey index pressed s = .refused (.keyIndexOutOfRange index))

/-- Rule R186: the redraw query gives DF and clears it in the same operation, so a second query gives false. -/
def Obligations.RedrawFlagIsConsumed : Prop :=
  ∀ s : State, (isRedrawOwed s).1 = s.df ∧ (isRedrawOwed s).2.df = false ∧
    Frame s (isRedrawOwed s).2 (fun p => p = .df) ∧ (isRedrawOwed (isRedrawOwed s).2).1 = false

/-- Rules R187, R188: `pixelAt` inside 64 by 32 gives the cell and `onBeepEdge` gives BEEP; neither changes anything, in any
phase. That a cell outside is refused is the spec's decision D23 (log entry 19). -/
def Obligations.QueriesChangeNothing : Prop :=
  ∀ p : Session,
    (∀ (x : Fin 64) (y : Fin 32), p.apply (.pixelAt x.val y.val) = .next p ∧
      p.reply (.pixelAt x.val y.val) = .bool (p.state.fb.pixel x y)) ∧
    (∀ x y, 63 < x ∨ 31 < y → p.apply (.pixelAt x y) = .refused (.pixelOutOfRange x y)) ∧
    p.apply .onBeepEdge = .next p ∧ p.reply .onBeepEdge = .bool p.state.beep

/-- Rules R200, R25: a reset leaves every register, the stack, the framebuffer, the keypad, the timers and the two flags at
0, the font at 0x000 to 0x04F, and the rest of memory at whatever MEM_INIT is: it holds for every font and every MEM_INIT.
That DF and BEEP start at 0 is the spec's decision D18 and D19 (log entry 15), `draws` is the model's own (log entry 2). -/
def Obligations.ResetLeaves : Prop :=
  ∀ (font memInit : List Byte),
    let s := State.resetWith font memInit
    (∀ r, s.readV r = 0) ∧ s.i = 0 ∧ s.pc = 0 ∧ s.sp.val = 0 ∧ (∀ k : Fin 16, s.stack[k] = 0) ∧
    (∀ x y, s.fb.pixel x y = false) ∧ s.df = false ∧ (∀ k, s.keyDown k = false) ∧ s.dt = 0 ∧ s.st = 0 ∧
    s.beep = false ∧ (∀ a, a < 80 → s.mem.read a = font.getD a 0) ∧
    (∀ a, 80 ≤ a → a < 4096 → s.mem.read a = memInit.getD (a - 80) 0)

/-- The model's own choice (log entries 1, 3): `State.reset` is the reset with the classic font of rule R124 and with zeros
where the spec leaves memory open. -/
def Obligations.ResetStateIsClassicFontAndZeros : Prop := State.resetWith classicFont [] = State.reset

/-- Rule R201: a program of at most 3584 bytes is copied to 0x200 upward and PC set there; a longer one changes nothing. That
nothing else changes is the spec's decision D20 (log entry 19). -/
def Obligations.LoadProgramCopies : Prop :=
  ∀ (bytes : List Byte) (s : State),
    (bytes.length ≤ 3584 → ∃ t, loadProgram bytes s = .next t ∧
      (∀ j, j < bytes.length → t.mem.read (0x200 + j) = bytes.getD j 0) ∧ t.pc = 0x200 ∧
      Frame s t (fun p => p = .pc ∨ ∃ j, j < bytes.length ∧ p = .mem (0x200 + j))) ∧
    (3584 < bytes.length → loadProgram bytes s = .fault (.programTooLarge bytes.length))

/-- Rules R189, R202: within a session a step before a load and a load after a load are refused, whatever the state. That
the host has no such move is the spec's decision D20 and D24 (log entry 19). -/
def Obligations.HostDutiesAreRefused : Prop :=
  ∀ (s : State) (bytes : List Byte),
    (Session.mk .fresh s).apply .step = .refused .stepBeforeLoad ∧
    (Session.mk .ready s).apply (.loadProgram bytes) = .refused .loadDuringRun ∧
    (bytes.length ≤ 3584 → ∃ t, (Session.mk .fresh s).apply (.loadProgram bytes) = .next ⟨.ready, t⟩ ∧ t.pc = 0x200)

/-- Rule R203: from the end of a run every step completes and changes nothing. What the end of a run is, is the spec's own
offer, decision D21 (log entry 21). -/
def Obligations.EndedRunStaysPut : Prop :=
  ∀ (s : State) (haltPc : Imm12), s.endedAt haltPc → step s = .next s ∧ stepReport s = .ok

/-! ## The invariant (rule R27) -/

/-- Rules R25, R27: the state after any reset keeps the invariant, `State.reset` among them. -/
def Obligations.ResetMeetsInvariant : Prop :=
  State.reset.Inv ∧ ∀ font memInit : List Byte, (State.resetWith font memInit).Inv

/-- Rules R13, R15, R27, which the spec derives: every step keeps memory in its canonical form, every stack entry an address
an instruction can be fetched from, and PC at most 0x10FE. It holds from every state with the invariant, reachable or not. -/
def Obligations.StepKeepsInvariant : Prop := ∀ s t : State, s.Inv → step s = .next t → t.Inv

/-- Rule R27, which the spec derives: in every session any host can bring about, by any sequence of admitted operations
after any reset, the state keeps the invariant. -/
def Obligations.ReachableSessionsKeepInvariant : Prop := ∀ p : Session, p.Reachable → p.state.Inv

/-- Rules R3, R6: of the operations whose duty is met only a step can fault, and only a broken duty of the host is
refused: such an operation completes, or it is a step that ends in a fault of the core. It holds in every session,
reachable or not. -/
def Obligations.AdmittedOperationsComplete : Prop :=
  ∀ (p : Session) (o : HostOp),
    (match o with
      | .step => p.phase = .ready
      | .loadProgram bytes => p.phase = .fresh ∧ bytes.length ≤ 3584
      | .setKey index _ => index ≤ 15
      | .pixelAt x y => x ≤ 63 ∧ y ≤ 31
      | .reset _ _ => True
      | .tick => True
      | .isRedrawOwed => True
      | .onBeepEdge => True) →
    (∃ q, p.apply o = .next q) ∨ (o = .step ∧ ∃ f, p.apply o = .fault f ∧ step p.state = .fault f)

/-- Rules R3, R27, R189, the clauses of R27 which the spec derives: every host operation, from every session whose state
meets the invariant, reachable or not, leaves a state that meets it: a reset to any memory, a load of any program, a
step, a tick, a key, a query. -/
def Obligations.OperationsKeepInvariant : Prop :=
  ∀ (p q : Session) (o : HostOp), p.state.Inv → p.apply o = .next q → q.state.Inv

/-- Rules R174, R176, R181, R189, R201: a fault, of a step or of a load, leaves the session as it was and is what the host
gets back, and any later operations are applied from there; a load that completes is answered Ok. That a
fault changes nothing is the spec's decision D11 (log entry 6), the report of a step its decision D13 (log entry 5), that
the host may go on from a failed load the model's reading of D20 and D24 (log entry 19). -/
def Obligations.FaultsLeaveTheSessionAndAreReplied : Prop :=
  (∀ (p : Session) (o : HostOp) (f : Fault), p.apply o = .fault f →
    (o = .step ∧ p.reply o = .report (.fault f) ∨
      ∃ bytes, o = .loadProgram bytes ∧ f = .programTooLarge bytes.length ∧ p.reply o = .loaded .programTooLarge) ∧
    p.perform o = .ok (p, p.reply o) ∧
    ∀ os q replies, p.run os = .ok (q, replies) → p.run (o :: os) = .ok (q, p.reply o :: replies)) ∧
  ∀ (p q : Session) (bytes : List Byte), p.apply (.loadProgram bytes) = .next q →
    p.reply (.loadProgram bytes) = .loaded .ok

/-- Rules R3, R189: an infinite sequence of operations whose host keeps its duties is applied one after the other without
end: from a state with the invariant, every session it passes through meets the invariant and is the one its finite run
up to there ends in. That every order is admitted is the spec's decision D2 (log entry 20). -/
def Obligations.SchedulesRunWithoutEnd : Prop :=
  ∀ (p : Session) (ops : Schedule), p.state.Inv → p.Admits ops →
    ∀ n, ∃ q replies, p.before ops n = .ok q ∧ p.run ((List.range n).map ops) = .ok (q, replies) ∧
      replies.length = n ∧ q.state.Inv
end

