-- ==== Sys2Proof/Laws/Decode.lean ====
section
/-! SUPPORT. The fields of a word as numbers, the fields of the words the encoder builds, the word rebuilt from its
fields, and a two-byte instruction as bytes. -/

namespace Sys2Proof

/-! ## Fields as numbers (rule R62) -/

@[simp] theorem toNat_fieldFamily (w : Word) : (fieldFamily w).toNat = w.toNat / 4096 := by
  have := w.isLt
  simp [fieldFamily, Nat.shiftRight_eq_div_pow]
  omega

@[simp] theorem toNat_fieldX (w : Word) : (fieldX w).toNat = w.toNat / 256 % 16 := by
  simp [fieldX, Nat.shiftRight_eq_div_pow]

@[simp] theorem toNat_fieldY (w : Word) : (fieldY w).toNat = w.toNat / 16 % 16 := by
  simp [fieldY, Nat.shiftRight_eq_div_pow]

@[simp] theorem toNat_fieldN (w : Word) : (fieldN w).toNat = w.toNat % 16 := by
  simp [fieldN]

@[simp] theorem toNat_fieldNN (w : Word) : (fieldNN w).toNat = w.toNat % 256 := by
  simp [fieldNN]

@[simp] theorem toNat_fieldNNN (w : Word) : (fieldNNN w).toNat = w.toNat % 4096 := by
  simp [fieldNNN]

/-! ## The encoder's words as numbers (rule R63) -/

theorem toNat_cat {n m : Nat} (a : BitVec n) (b : BitVec m) : (a ++ b).toNat = a.toNat * 2 ^ m + b.toNat := by
  rw [BitVec.toNat_append, Nat.shiftLeft_eq, Nat.mul_comm, ← Nat.two_pow_add_eq_or_of_lt b.isLt]

@[simp] theorem toNat_encNNN (f : Nibble) (nnn : Imm12) : (encNNN f nnn).toNat = f.toNat * 4096 + nnn.toNat :=
  toNat_cat f nnn

@[simp] theorem toNat_encXNN (f : Nibble) (x : Reg) (nn : Byte) :
    (encXNN f x nn).toNat = f.toNat * 4096 + x.toNat * 256 + nn.toNat := by
  rw [encXNN, toNat_cat, toNat_cat]
  omega

@[simp] theorem toNat_encXYN (f : Nibble) (x y : Reg) (n : Nibble) :
    (encXYN f x y n).toNat = f.toNat * 4096 + x.toNat * 256 + y.toNat * 16 + n.toNat := by
  rw [encXYN, toNat_cat, toNat_cat, toNat_cat]
  omega

@[simp] theorem toNat_wordOf (hi lo : Byte) : (wordOf hi lo).toNat = hi.toNat * 256 + lo.toNat := toNat_cat hi lo

/-! ## The fields of the encoder's words -/

section
variable (f : Nibble) (x y : Reg) (n : Nibble) (nn : Byte) (nnn : Imm12)

@[simp] theorem fieldFamily_encNNN : fieldFamily (encNNN f nnn) = f := by
  apply BitVec.eq_of_toNat_eq; have := nnn.isLt; simp; omega
@[simp] theorem fieldNNN_encNNN : fieldNNN (encNNN f nnn) = nnn := by
  apply BitVec.eq_of_toNat_eq; have := nnn.isLt; simpa using this
@[simp] theorem fieldFamily_encXNN : fieldFamily (encXNN f x nn) = f := by
  apply BitVec.eq_of_toNat_eq; have := nn.isLt; have := x.isLt; simp; omega
@[simp] theorem fieldX_encXNN : fieldX (encXNN f x nn) = x := by
  apply BitVec.eq_of_toNat_eq; have := nn.isLt; have := x.isLt; simp; omega
@[simp] theorem fieldNN_encXNN : fieldNN (encXNN f x nn) = nn := by
  apply BitVec.eq_of_toNat_eq; have := nn.isLt; simp; omega
@[simp] theorem fieldFamily_encXYN : fieldFamily (encXYN f x y n) = f := by
  apply BitVec.eq_of_toNat_eq; have := n.isLt; have := y.isLt; have := x.isLt; simp; omega
@[simp] theorem fieldX_encXYN : fieldX (encXYN f x y n) = x := by
  apply BitVec.eq_of_toNat_eq; have := n.isLt; have := y.isLt; have := x.isLt; simp; omega
@[simp] theorem fieldY_encXYN : fieldY (encXYN f x y n) = y := by
  apply BitVec.eq_of_toNat_eq; have := n.isLt; have := y.isLt; simp; omega
@[simp] theorem fieldN_encXYN : fieldN (encXYN f x y n) = n := by
  apply BitVec.eq_of_toNat_eq; have := n.isLt; simp; omega

end

/-! ## A word rebuilt from its fields -/

theorem encNNN_fields (w : Word) : encNNN (fieldFamily w) (fieldNNN w) = w := by
  apply BitVec.eq_of_toNat_eq; simp; omega
theorem encXNN_fields (w : Word) : encXNN (fieldFamily w) (fieldX w) (fieldNN w) = w := by
  apply BitVec.eq_of_toNat_eq; simp; omega
theorem encXYN_fields (w : Word) : encXYN (fieldFamily w) (fieldX w) (fieldY w) (fieldN w) = w := by
  apply BitVec.eq_of_toNat_eq; simp; omega

/-! ## The fixed bits of a word (rules R63, R65) -/

theorem encXYN_and (f x y n f' x' y' n' : Nibble) :
    encXYN f x y n &&& encXYN f' x' y' n' = encXYN (f &&& f') (x &&& x') (y &&& y') (n &&& n') :=
  (BitVec.and_append (x₁ := f ++ x) (x₂ := f' ++ x') (y₁ := y ++ n) (y₂ := y' ++ n')).trans
    (congrArg₂ (· ++ ·) BitVec.and_append BitVec.and_append)

theorem encXNN_and (f x f' x' : Nibble) (b b' : Byte) :
    encXNN f x b &&& encXNN f' x' b' = encXNN (f &&& f') (x &&& x') (b &&& b') :=
  (BitVec.and_append (x₁ := f ++ x) (x₂ := f' ++ x') (y₁ := b) (y₂ := b')).trans
    (congrArg₂ (· ++ ·) BitVec.and_append rfl)

/-- The fixed bits of formats XNN, NNN and XYN: the family. -/
theorem mask_family (w : Word) : w &&& 0xF000 = encXYN (fieldFamily w) 0 0 0 := by
  conv_lhs => rw [← encXYN_fields w, show (0xF000 : Word) = encXYN 0xF 0 0 0 by decide, encXYN_and]
  congr 1 <;> (apply BitVec.eq_of_getLsbD_eq; intro i hi; simp; try (interval_cases i <;> simp))

/-- The fixed bits of format XY: the family and the low digit. -/
theorem mask_digit (w : Word) : w &&& 0xF00F = encXYN (fieldFamily w) 0 0 (fieldN w) := by
  conv_lhs => rw [← encXYN_fields w, show (0xF00F : Word) = encXYN 0xF 0 0 0xF by decide, encXYN_and]
  congr 1 <;> (apply BitVec.eq_of_getLsbD_eq; intro i hi; simp; try (interval_cases i <;> simp))

/-- The fixed bits of format X: the family and the low byte. -/
theorem mask_byte (w : Word) : w &&& 0xF0FF = encXNN (fieldFamily w) 0 (fieldNN w) := by
  conv_lhs => rw [← encXNN_fields w, show (0xF0FF : Word) = encXNN 0xF 0 0xFF by decide, encXNN_and]
  congr 1 <;> (apply BitVec.eq_of_getLsbD_eq; intro i hi; simp; try (interval_cases i <;> simp))

/-- A word with the fixed bits of a row of format XNN, NNN or XYN has the row's family. -/
theorem family_of_mask {w : Word} {f : Nibble} (h : w &&& 0xF000 = encXYN f 0 0 0) : fieldFamily w = f := by
  rw [mask_family] at h
  simpa using congrArg fieldFamily h

/-- A word with the fixed bits of a row of format XY has the row's family and low digit. -/
theorem digit_of_mask {w : Word} {f n : Nibble} (h : w &&& 0xF00F = encXYN f 0 0 n) :
    fieldFamily w = f ∧ fieldN w = n := by
  rw [mask_digit] at h
  exact ⟨by simpa using congrArg fieldFamily h, by simpa using congrArg fieldN h⟩

/-- A word with the fixed bits of a row of format X has the row's family and low byte. -/
theorem byte_of_mask {w : Word} {f : Nibble} {b : Byte} (h : w &&& 0xF0FF = encXNN f 0 b) :
    fieldFamily w = f ∧ fieldNN w = b := by
  rw [mask_byte] at h
  exact ⟨by simpa using congrArg fieldFamily h, by simpa using congrArg fieldNN h⟩

/-! ## Words and bytes (rule R45) -/

@[simp] theorem toNat_highByte (w : Word) : (highByte w).toNat = w.toNat / 256 := by
  have := w.isLt
  simp [highByte, Nat.shiftRight_eq_div_pow]
  omega

@[simp] theorem toNat_lowByte (w : Word) : (lowByte w).toNat = w.toNat % 256 := by
  simp [lowByte]

@[simp] theorem wordOf_bytes (w : Word) : wordOf (highByte w) (lowByte w) = w := by
  apply BitVec.eq_of_toNat_eq; simp; omega

/-- The byte decoder on the two bytes of a word and whatever follows is the word decoder. -/
theorem decodeBytes_cons (w : Word) (rest : List Byte) (i : Instr) (h : decode w = .ok i) :
    decodeBytes (highByte w :: lowByte w :: rest) = .ok (i, rest) := by
  simp [decodeBytes, h]

/-- What the decoder refuses, it refuses as unrecognized and under the word's own name. -/
theorem decode_error (w : Word) (e : DecodeError) (h : decode w = .error e) : e = .unrecognized w := by
  unfold decode decode0 decode5 decode8 decode9 decodeE decodeF at h
  split at h <;> (try split at h) <;> simp_all

end Sys2Proof
end

