-- ==== Sys2Proof/Laws/Display.lean ====
section
/-! SUPPORT. What the sprite unit does, said once: the loop of rule R141 turns over exactly the cells under a 1 of the
sprite, and reports a collision exactly when one of them was lit. -/

namespace Sys2Proof.Machine

theorem FrameBuffer.pixel_flip (fb : FrameBuffer) (x x' : Fin 64) (y y' : Fin 32) :
    (fb.flip x y).pixel x' y' = if x' = x ∧ y' = y then !fb.pixel x y else fb.pixel x' y' := by
  by_cases hy : y' = y
  · subst hy
    by_cases hx : x' = x
    · subst hx
      simp [FrameBuffer.pixel, FrameBuffer.flip]
    · have : x'.val ≠ x.val := fun e => hx (Fin.ext e)
      simp [FrameBuffer.pixel, FrameBuffer.flip, hx, this]
  · have : y.val ≠ y'.val := fun e => hy (Fin.ext e.symm)
    simp [FrameBuffer.pixel, FrameBuffer.flip, hy, Vector.getElem_set_ne _ _ this]

@[simp] theorem FrameBuffer.pixel_clear (x : Fin 64) (y : Fin 32) : FrameBuffer.clear.pixel x y = false := by
  simp [FrameBuffer.pixel, FrameBuffer.clear]

/-- Framebuffers with the same cells are equal. -/
theorem FrameBuffer.ext {fb fb' : FrameBuffer} (h : ∀ x y, fb.pixel x y = fb'.pixel x y) : fb = fb' := by
  apply Vector.ext
  intro k hk
  apply BitVec.eq_of_getLsbD_eq
  intro j hj
  exact h ⟨j, hj⟩ ⟨k, hk⟩

theorem column_inj {a b : Nat} (h : column a = column b) : a % 64 = b % 64 := by
  simpa [column, Fin.ext_iff] using h

theorem line_inj {a b : Nat} (h : line a = line b) : a % 32 = b % 32 := by
  simpa [line, Fin.ext_iff] using h

/-- Sprite row byte `b` has a 1 over column `px`, among its first `n` columns. -/
def RowLit (x0 : Nat) (b : Byte) (n : Nat) (px : Fin 64) : Prop :=
  ∃ c, c < n ∧ b.getLsbD (7 - c) = true ∧ px = column (x0 + c)

theorem drawBits_spec (x0 y0 : Nat) (b : Byte) (r : Nat) (acc : FrameBuffer × Bool) (n : Nat) (hn : n ≤ 8) :
    let out := (List.range n).foldl (fun acc c => drawBit x0 y0 b r c acc) acc
    (∀ px py, (py = line (y0 + r) ∧ RowLit x0 b n px → out.1.pixel px py = !acc.1.pixel px py) ∧
      (¬ (py = line (y0 + r) ∧ RowLit x0 b n px) → out.1.pixel px py = acc.1.pixel px py)) ∧
    (out.2 = true ↔ acc.2 = true ∨ ∃ px, RowLit x0 b n px ∧ acc.1.pixel px (line (y0 + r)) = true) := by
  induction n with
  | zero =>
    refine ⟨fun px py => ⟨?_, fun _ => rfl⟩, ?_⟩
    · rintro ⟨_, c, hc, _⟩
      omega
    · constructor
      · exact Or.inl
      · rintro (h | ⟨px, ⟨c, hc, _⟩, _⟩)
        · exact h
        · omega
  | succ n ih =>
    obtain ⟨ihp, ihc⟩ := ih (by omega)
    simp only [List.range_succ, List.foldl_append, List.foldl_cons, List.foldl_nil]
    generalize (List.range n).foldl (fun acc c => drawBit x0 y0 b r c acc) acc = mid at ihp ihc
    have fresh : ¬ RowLit x0 b n (column (x0 + n)) := by
      rintro ⟨c, hc, _, he⟩
      have := column_inj he
      omega
    by_cases hb : b.getLsbD (7 - n) = true
    · have lit : ∀ px, RowLit x0 b (n + 1) px ↔ RowLit x0 b n px ∨ px = column (x0 + n) := by
        intro px
        constructor
        · rintro ⟨c, hc, hbit, he⟩
          by_cases h : c = n
          · exact .inr (h ▸ he)
          · exact .inl ⟨c, by omega, hbit, he⟩
        · rintro (⟨c, hc, hbit, he⟩ | he)
          · exact ⟨c, by omega, hbit, he⟩
          · exact ⟨n, by omega, hb, he⟩
      have midcell : mid.1.pixel (column (x0 + n)) (line (y0 + r)) = acc.1.pixel (column (x0 + n)) (line (y0 + r)) :=
        (ihp _ _).2 (fun h => fresh h.2)
      simp only [drawBit, hb, if_true]
      refine ⟨fun px py => ?_, ?_⟩
      · rw [FrameBuffer.pixel_flip, lit]
        by_cases hcell : px = column (x0 + n) ∧ py = line (y0 + r)
        · obtain ⟨rfl, rfl⟩ := hcell
          simp [midcell]
        · rw [if_neg hcell]
          refine ⟨fun h => (ihp px py).1 ⟨h.1, h.2.resolve_right (fun e => hcell ⟨e, h.1⟩)⟩,
            fun h => (ihp px py).2 (fun h' => h ⟨h'.1, .inl h'.2⟩)⟩
      · rw [Bool.or_eq_true, ihc, midcell]
        constructor
        · rintro ((h | ⟨px, hp, hl⟩) | h)
          · exact .inl h
          · exact .inr ⟨px, (lit px).2 (.inl hp), hl⟩
          · exact .inr ⟨_, (lit _).2 (.inr rfl), h⟩
        · rintro (h | ⟨px, hp, hl⟩)
          · exact .inl (.inl h)
          · rcases (lit px).1 hp with hp | rfl
            · exact .inl (.inr ⟨px, hp, hl⟩)
            · exact .inr hl
    · have lit : ∀ px, RowLit x0 b (n + 1) px ↔ RowLit x0 b n px := by
        intro px
        constructor
        · rintro ⟨c, hc, hbit, he⟩
          have : c ≠ n := fun e => hb (e ▸ hbit)
          exact ⟨c, by omega, hbit, he⟩
        · rintro ⟨c, hc, hbit, he⟩
          exact ⟨c, by omega, hbit, he⟩
      simp only [drawBit, hb, if_false, Bool.false_eq_true]
      refine ⟨fun px py => ?_, ?_⟩
      · rw [lit]; exact ihp px py
      · simp only [lit]; exact ihc

/-- The sprite rows `bs`, the first of them row `r`, have a 1 over the cell in column `px` and row `py`. -/
def SpriteLit (x0 y0 : Nat) (r : Nat) (bs : List Byte) (px : Fin 64) (py : Fin 32) : Prop :=
  ∃ k, k < bs.length ∧ py = line (y0 + (r + k)) ∧ RowLit x0 (bs.getD k 0) 8 px

theorem spriteLit_cons (x0 y0 r : Nat) (b : Byte) (bs : List Byte) (px : Fin 64) (py : Fin 32) :
    SpriteLit x0 y0 r (b :: bs) px py ↔
      (py = line (y0 + r) ∧ RowLit x0 b 8 px) ∨ SpriteLit x0 y0 (r + 1) bs px py := by
  constructor
  · rintro ⟨k, hk, hy, hx⟩
    cases k with
    | zero => exact .inl ⟨by simpa using hy, by simpa using hx⟩
    | succ k =>
      refine .inr ⟨k, by simpa using hk, ?_, by simpa using hx⟩
      rw [hy]; congr 1; omega
  · rintro (⟨hy, hx⟩ | ⟨k, hk, hy, hx⟩)
    · exact ⟨0, by simp, by simpa using hy, by simpa using hx⟩
    · refine ⟨k + 1, by simpa using hk, ?_, by simpa using hx⟩
      rw [hy]; congr 1; omega

theorem drawRows_spec (x0 y0 : Nat) (bs : List Byte) (r : Nat) (acc : FrameBuffer × Bool) (hlen : r + bs.length ≤ 32) :
    let out := drawRows x0 y0 r bs acc
    (∀ px py, (SpriteLit x0 y0 r bs px py → out.1.pixel px py = !acc.1.pixel px py) ∧
      (¬ SpriteLit x0 y0 r bs px py → out.1.pixel px py = acc.1.pixel px py)) ∧
    (out.2 = true ↔ acc.2 = true ∨ ∃ px py, SpriteLit x0 y0 r bs px py ∧ acc.1.pixel px py = true) := by
  induction bs generalizing r acc with
  | nil =>
    refine ⟨fun px py => ⟨?_, fun _ => rfl⟩, ?_⟩
    · rintro ⟨k, hk, _⟩
      simp at hk
    · constructor
      · exact Or.inl
      · rintro (h | ⟨px, py, ⟨k, hk, _⟩, _⟩)
        · exact h
        · simp at hk
  | cons b bs ih =>
    simp only [List.length_cons] at hlen
    have hrow := drawBits_spec x0 y0 b r acc 8 (by omega)
    have ih := ih (r + 1) (drawRow x0 y0 b r acc) (by omega)
    simp only [drawRow] at ih hrow
    simp only [drawRows, drawRow]
    generalize (List.range 8).foldl (fun acc c => drawBit x0 y0 b r c acc) acc = mid at ih hrow
    have apart : ∀ px py, SpriteLit x0 y0 (r + 1) bs px py → py ≠ line (y0 + r) := by
      rintro px py ⟨k, hk, hy, _⟩ he
      have := line_inj (hy.symm.trans he)
      omega
    refine ⟨fun px py => ?_, ?_⟩
    · rw [spriteLit_cons]
      by_cases hrest : SpriteLit x0 y0 (r + 1) bs px py
      · refine ⟨fun _ => ?_, fun h => absurd (.inr hrest) h⟩
        rw [(ih.1 px py).1 hrest, (hrow.1 px py).2 (fun h => apart px py hrest h.1)]
      · rw [(ih.1 px py).2 hrest]
        refine ⟨fun h => (hrow.1 px py).1 (h.resolve_right hrest), fun h => (hrow.1 px py).2 (fun h' => h (.inl h'))⟩
    · rw [ih.2, hrow.2]
      constructor
      · rintro ((h | ⟨px, hx, hl⟩) | ⟨px, py, hp, hl⟩)
        · exact .inl h
        · exact .inr ⟨px, _, (spriteLit_cons ..).2 (.inl ⟨rfl, hx⟩), hl⟩
        · refine .inr ⟨px, py, (spriteLit_cons ..).2 (.inr hp), ?_⟩
          rwa [(hrow.1 px py).2 (fun h => apart px py hp h.1)] at hl
      · rintro (h | ⟨px, py, hp, hl⟩)
        · exact .inl (.inl h)
        · rcases (spriteLit_cons ..).1 hp with ⟨rfl, hx⟩ | hp
          · exact .inl (.inr ⟨px, hx, hl⟩)
          · refine .inr ⟨px, py, hp, ?_⟩
            rwa [(hrow.1 px py).2 (fun h => apart px py hp h.1)]

/-- What drawing a sprite of at most 32 rows does (rule R141): the cells under a 1 are turned over, every other cell
stays, and there is a collision exactly when a lit cell was turned over. -/
theorem drawSprite_spec (x0 y0 : Nat) (bs : List Byte) (fb : FrameBuffer) (hlen : bs.length ≤ 32) :
    (∀ px py, (SpriteLit x0 y0 0 bs px py → (drawSprite x0 y0 bs fb).1.pixel px py = !fb.pixel px py) ∧
      (¬ SpriteLit x0 y0 0 bs px py → (drawSprite x0 y0 bs fb).1.pixel px py = fb.pixel px py)) ∧
    ((drawSprite x0 y0 bs fb).2 = true ↔ ∃ px py, SpriteLit x0 y0 0 bs px py ∧ fb.pixel px py = true) := by
  simpa [drawSprite] using drawRows_spec x0 y0 bs 0 (fb, false) (by omega)

end Sys2Proof.Machine
end

