-- ==== Sys2Proof/Laws/Memory.lean ====
section
/-! SUPPORT. The laws of memory: a read after writes gives what was written, other addresses read as before, every
operation keeps the canonical form, and memories in canonical form that read alike are equal. -/

namespace Sys2Proof.Machine

/-! ## Reading after writing -/

@[simp] theorem Memory.erase_nil (a : Nat) : Memory.erase [] a = [] := rfl

theorem Memory.erase_cons (b : Nat) (u : Byte) (m : Memory) (a : Nat) :
    Memory.erase ((b, u) :: m) a = if b = a then Memory.erase m a else (b, u) :: Memory.erase m a := by
  by_cases h : b = a <;> simp [Memory.erase, h]

theorem Memory.read_erase (m : Memory) (a c : Nat) :
    (m.erase a).read c = if c = a then unlistedByte a else m.read c := by
  induction m with
  | nil => by_cases h : c = a <;> simp [Memory.read, h]
  | cons e m ih =>
    obtain ⟨b, u⟩ := e
    rw [Memory.erase_cons]
    by_cases hb : b = a
    · rw [if_pos hb, ih]
      by_cases h : c = a <;> simp [h, Memory.read, hb]
    · rw [if_neg hb, Memory.read, ih]
      by_cases h : c = a
      · have : c ≠ b := fun e => hb (e.symm.trans h)
        rw [if_pos h, if_neg this, if_pos h]
      · simp [h, Memory.read]

theorem Memory.read_insert (m : Memory) (a : Nat) (w : Byte) (h : ∀ e ∈ m, e.1 ≠ a) (c : Nat) :
    (m.insert a w).read c = if c = a then w else m.read c := by
  induction m with
  | nil => simp [Memory.insert, Memory.read]
  | cons e m ih =>
    obtain ⟨b, u⟩ := e
    have hb : b ≠ a := h (b, u) (by simp)
    have ih := ih (fun e he => h e (by simp [he]))
    by_cases hlt : a < b
    · by_cases hc : c = a <;> simp [Memory.insert, Memory.read, hlt, hc]
    · by_cases hc : c = a
      · have : c ≠ b := fun e => hb (e.symm.trans hc)
        simp only [Memory.insert, Memory.read, hlt, this, if_false, ih]
      · simp only [Memory.insert, Memory.read, hlt, if_false, ih, if_neg hc]

theorem Memory.mem_erase {m : Memory} {a : Nat} {e : Host.Cell} (h : e ∈ m.erase a) : e ∈ m ∧ e.1 ≠ a := by
  simpa [Memory.erase] using h

/-- What one write does to every address (rule R42). -/
theorem Memory.read_write (m : Memory) (a : Nat) (w : Byte) (c : Nat) :
    (m.write a w).read c = if c = a ∧ a < Config.memSize then w else m.read c := by
  unfold Memory.write
  by_cases ha : a < Config.memSize
  · by_cases hw : w = unlistedByte a
    · by_cases hc : c = a <;> simp [ha, hw, hc, Memory.read_erase]
    · have hi := Memory.read_insert (m.erase a) a w (fun e he => (Memory.mem_erase he).2) c
      rw [if_pos ha, if_neg hw, hi, Memory.read_erase]
      by_cases hc : c = a <;> simp [ha, hc]
  · simp [ha]

theorem Memory.read_write_ne (m : Memory) {a c : Nat} (w : Byte) (h : c ≠ a) : (m.write a w).read c = m.read c := by
  simp [Memory.read_write, h]

/-- What a block of writes inside memory does to every address (rule R44). -/
theorem Memory.read_writeBytes (m : Memory) (a : Nat) (ws : List Byte) (h : a + ws.length ≤ Config.memSize) (c : Nat) :
    (m.writeBytes a ws).read c = if a ≤ c ∧ c < a + ws.length then ws.getD (c - a) 0 else m.read c := by
  induction ws generalizing m a with
  | nil =>
    have : ¬ (a ≤ c ∧ c < a + 0) := by omega
    simp [Memory.writeBytes]
  | cons w ws ih =>
    simp only [List.length_cons] at h ⊢
    rw [Memory.writeBytes, ih _ _ (by omega), Memory.read_write]
    by_cases hc : c = a
    · subst hc
      have h1 : ¬ (c + 1 ≤ c ∧ c < c + 1 + ws.length) := by omega
      have h2 : c ≤ c ∧ c < c + (ws.length + 1) := by omega
      have h3 : c < Config.memSize := by omega
      simp [h3]
    · by_cases hin : a + 1 ≤ c ∧ c < a + 1 + ws.length
      · have h2 : a ≤ c ∧ c < a + (ws.length + 1) := by omega
        have e : c - a = (c - (a + 1)) + 1 := by omega
        rw [if_pos hin, if_pos h2, e]
        simp
      · have h2 : ¬ (a ≤ c ∧ c < a + (ws.length + 1)) := by omega
        rw [if_neg hin, if_neg h2]
        simp [hc]

/-- A block of writes leaves every address outside it alone, wherever it starts. -/
theorem Memory.read_writeBytes_outside (m : Memory) (a : Nat) (ws : List Byte) (c : Nat)
    (h : c < a ∨ a + ws.length ≤ c) : (m.writeBytes a ws).read c = m.read c := by
  induction ws generalizing m a with
  | nil => rfl
  | cons w ws ih =>
    simp only [List.length_cons] at h
    rw [Memory.writeBytes, ih _ _ (by omega), Memory.read_write_ne _ _ (by omega)]

@[simp] theorem Memory.length_readBytes (m : Memory) (a len : Nat) : (m.readBytes a len).length = len := by
  simp [Memory.readBytes]

/-! ## The canonical form -/

theorem Memory.wfFrom_mono {lo lo' : Nat} {m : Memory} (h : Memory.wfFrom lo m = true) (hle : lo' ≤ lo) :
    Memory.wfFrom lo' m = true := by
  cases m with
  | nil => rfl
  | cons e m =>
    obtain ⟨b, u⟩ := e
    simp [Memory.wfFrom] at h ⊢
    exact ⟨⟨⟨by omega, h.1.1.2⟩, h.1.2⟩, h.2⟩

theorem Memory.wfFrom_erase {lo : Nat} {m : Memory} (h : Memory.wfFrom lo m = true) (a : Nat) :
    Memory.wfFrom lo (m.erase a) = true := by
  induction m generalizing lo with
  | nil => rfl
  | cons e m ih =>
    obtain ⟨b, u⟩ := e
    simp [Memory.wfFrom] at h
    rw [Memory.erase_cons]
    by_cases hb : b = a
    · rw [if_pos hb]
      exact Memory.wfFrom_mono (ih h.2) (by omega)
    · rw [if_neg hb]
      simp [Memory.wfFrom]
      exact ⟨h.1, ih h.2⟩

theorem Memory.wfFrom_insert {lo : Nat} {m : Memory} (h : Memory.wfFrom lo m = true) {a : Nat} {w : Byte}
    (hlo : lo ≤ a) (ha : a < Config.memSize) (hw : w ≠ unlistedByte a) (hne : ∀ e ∈ m, e.1 ≠ a) :
    Memory.wfFrom lo (m.insert a w) = true := by
  induction m generalizing lo with
  | nil => simp [Memory.insert, Memory.wfFrom, hlo, hw]; exact ha
  | cons e m ih =>
    obtain ⟨b, u⟩ := e
    have hb : b ≠ a := hne (b, u) (by simp)
    simp [Memory.wfFrom] at h
    by_cases hlt : a < b
    · simp [Memory.insert, hlt, Memory.wfFrom, hlo, hw, h.1.1.2, h.1.2, h.2]
      omega
    · simp [Memory.insert, hlt, Memory.wfFrom, h.1.1.1, h.1.1.2, h.1.2]
      exact ih h.2 (by omega) (fun e he => hne e (by simp [he]))

/-- Every write keeps the canonical form. -/
theorem Memory.wf_write {m : Memory} (h : m.wf = true) (a : Nat) (w : Byte) : (m.write a w).wf = true := by
  unfold Memory.write
  by_cases ha : a < Config.memSize
  · by_cases hw : w = unlistedByte a
    · rw [if_pos ha, if_pos hw]
      exact Memory.wfFrom_erase h a
    · rw [if_pos ha, if_neg hw]
      exact Memory.wfFrom_insert (Memory.wfFrom_erase h a) (Nat.zero_le a) ha hw
        (fun e he => (Memory.mem_erase he).2)
  · rw [if_neg ha]
    exact h

/-- Every block of writes keeps the canonical form. -/
theorem Memory.wf_writeBytes {m : Memory} (h : m.wf = true) (a : Nat) (ws : List Byte) :
    (m.writeBytes a ws).wf = true := by
  induction ws generalizing m a with
  | nil => exact h
  | cons w ws ih => exact ih (Memory.wf_write h a w) (a + 1)

theorem Memory.read_of_lt {lo : Nat} {m : Memory} (h : Memory.wfFrom lo m = true) {a : Nat} (ha : a < lo) :
    m.read a = unlistedByte a := by
  induction m generalizing lo with
  | nil => rfl
  | cons e m ih =>
    obtain ⟨b, u⟩ := e
    simp [Memory.wfFrom] at h
    have : a ≠ b := by omega
    simp only [Memory.read, this, if_false]
    exact ih h.2 (by omega)

theorem Memory.ext_from {lo : Nat} {m m' : Memory} (h : Memory.wfFrom lo m = true) (h' : Memory.wfFrom lo m' = true)
    (hr : ∀ a, a < Config.memSize → m.read a = m'.read a) : m = m' := by
  induction m generalizing lo m' with
  | nil =>
    cases m' with
    | nil => rfl
    | cons e m' =>
      obtain ⟨b, u⟩ := e
      simp [Memory.wfFrom] at h'
      exact absurd (by simpa [Memory.read] using (hr b (by omega)).symm) h'.1.2
  | cons e m ih =>
    obtain ⟨b, u⟩ := e
    simp [Memory.wfFrom] at h
    cases m' with
    | nil => exact absurd (by simpa [Memory.read] using hr b (by omega)) h.1.2
    | cons e' m' =>
      obtain ⟨b', u'⟩ := e'
      simp [Memory.wfFrom] at h'
      have hbb : b = b' := by
        rcases Nat.lt_trichotomy b b' with hlt | heq | hgt
        · have hx := hr b (by omega)
          have hne : b ≠ b' := by omega
          rw [show Memory.read ((b', u') :: m') b = unlistedByte b by
            simp only [Memory.read, hne, if_false]; exact Memory.read_of_lt h'.2 (by omega)] at hx
          exact absurd (by simpa [Memory.read] using hx) h.1.2
        · exact heq
        · have hx := hr b' (by omega)
          have hne : b' ≠ b := by omega
          rw [show Memory.read ((b, u) :: m) b' = unlistedByte b' by
            simp only [Memory.read, hne, if_false]; exact Memory.read_of_lt h.2 (by omega)] at hx
          exact absurd (by simpa [Memory.read] using hx.symm) h'.1.2
      subst hbb
      have huu : u = u' := by simpa [Memory.read] using hr b (by omega)
      subst huu
      have hm : m = m' := by
        refine ih (lo := b + 1) h.2 h'.2 (fun a ha => ?_)
        by_cases hab : a = b
        · subst hab
          rw [Memory.read_of_lt h.2 (by omega), Memory.read_of_lt h'.2 (by omega)]
        · simpa [Memory.read, hab] using hr a ha
      rw [hm]

/-- Memories in canonical form that read alike at every address are equal. -/
theorem Memory.ext {m m' : Memory} (h : m.wf = true) (h' : m'.wf = true)
    (hr : ∀ a, a < Config.memSize → m.read a = m'.read a) : m = m' := Memory.ext_from h h' hr

/-! ## Memory built from its contents -/

theorem Memory.contents_spec (f : Nat → Byte) (lo n : Nat) (hn : lo + n ≤ Config.memSize) :
    let m : Memory := (List.range' lo n).filterMap (fun a => if f a = unlistedByte a then none else some (a, f a))
    Memory.wfFrom lo m = true ∧
      ∀ a, m.read a = if lo ≤ a ∧ a < lo + n then f a else unlistedByte a := by
  induction n generalizing lo with
  | zero => simp [Memory.wfFrom, Memory.read]
  | succ n ih =>
    have ih := ih (lo + 1) (by omega)
    simp only [List.range'_succ] at ih ⊢
    by_cases hf : f lo = unlistedByte lo
    · simp only [List.filterMap_cons, hf, if_true] at ih ⊢
      refine ⟨Memory.wfFrom_mono ih.1 (by omega), fun a => ?_⟩
      rw [ih.2 a]
      by_cases ha : a = lo
      · subst ha
        have h1 : ¬ (a + 1 ≤ a ∧ a < a + 1 + n) := by omega
        have h2 : a ≤ a ∧ a < a + (n + 1) := by omega
        rw [if_neg h1, if_pos h2, hf]
      · by_cases h1 : lo + 1 ≤ a ∧ a < lo + 1 + n
        · rw [if_pos h1, if_pos (by omega)]
        · rw [if_neg h1, if_neg (by omega)]
    · simp only [List.filterMap_cons, hf, if_false] at ih ⊢
      refine ⟨?_, fun a => ?_⟩
      · simp [Memory.wfFrom, hf]
        exact ⟨by omega, ih.1⟩
      · by_cases ha : a = lo
        · subst ha
          have h2 : a ≤ a ∧ a < a + (n + 1) := by omega
          simp [Memory.read]
        · simp only [Memory.read, ha, if_false]
          rw [ih.2 a]
          by_cases h1 : lo + 1 ≤ a ∧ a < lo + 1 + n
          · rw [if_pos h1, if_pos (by omega)]
          · rw [if_neg h1, if_neg (by omega)]

theorem Memory.wf_ofContents (f : Nat → Byte) : (Memory.ofContents f).wf = true := by
  have h := (Memory.contents_spec f 0 Config.memSize (by simp)).1
  rw [← List.range_eq_range'] at h
  exact h

/-- A memory built from its contents reads as they say, at every address of memory. -/
theorem Memory.read_ofContents (f : Nat → Byte) {a : Nat} (ha : a < Config.memSize) :
    (Memory.ofContents f).read a = f a := by
  have h := (Memory.contents_spec f 0 Config.memSize (by simp)).2 a
  rw [← List.range_eq_range'] at h
  rw [Memory.ofContents, h, if_pos (by omega)]

end Sys2Proof.Machine
end

