-- ==== Sys2Proof/Laws/State.lean ====
section
/-! SUPPORT. What each update of the state does to each field, and to reading a register or a key: one lemma per field per
update, so that no later proof unfolds a record update. -/

namespace Sys2Proof.Machine

variable (s : State)

/-! ## The setters -/

@[simp] theorem State.setV_v (v : Vector Byte 16) : (s.setV v).v = v := rfl
@[simp] theorem State.setV_i (v : Vector Byte 16) : (s.setV v).i = s.i := rfl
@[simp] theorem State.setV_pc (v : Vector Byte 16) : (s.setV v).pc = s.pc := rfl
@[simp] theorem State.setV_sp (v : Vector Byte 16) : (s.setV v).sp = s.sp := rfl
@[simp] theorem State.setV_stack (v : Vector Byte 16) : (s.setV v).stack = s.stack := rfl
@[simp] theorem State.setV_mem (v : Vector Byte 16) : (s.setV v).mem = s.mem := rfl
@[simp] theorem State.setV_fb (v : Vector Byte 16) : (s.setV v).fb = s.fb := rfl
@[simp] theorem State.setV_df (v : Vector Byte 16) : (s.setV v).df = s.df := rfl
@[simp] theorem State.setV_key (v : Vector Byte 16) : (s.setV v).key = s.key := rfl
@[simp] theorem State.setV_dt (v : Vector Byte 16) : (s.setV v).dt = s.dt := rfl
@[simp] theorem State.setV_st (v : Vector Byte 16) : (s.setV v).st = s.st := rfl
@[simp] theorem State.setV_beep (v : Vector Byte 16) : (s.setV v).beep = s.beep := rfl
@[simp] theorem State.setV_draws (v : Vector Byte 16) : (s.setV v).draws = s.draws := rfl
@[simp] theorem State.setV_keyDown (v : Vector Byte 16) (k : KeyIx) : (s.setV v).keyDown k = s.keyDown k := rfl

@[simp] theorem State.setI_v (i : Word) : (s.setI i).v = s.v := rfl
@[simp] theorem State.setI_i (i : Word) : (s.setI i).i = i := rfl
@[simp] theorem State.setI_pc (i : Word) : (s.setI i).pc = s.pc := rfl
@[simp] theorem State.setI_sp (i : Word) : (s.setI i).sp = s.sp := rfl
@[simp] theorem State.setI_stack (i : Word) : (s.setI i).stack = s.stack := rfl
@[simp] theorem State.setI_mem (i : Word) : (s.setI i).mem = s.mem := rfl
@[simp] theorem State.setI_fb (i : Word) : (s.setI i).fb = s.fb := rfl
@[simp] theorem State.setI_df (i : Word) : (s.setI i).df = s.df := rfl
@[simp] theorem State.setI_key (i : Word) : (s.setI i).key = s.key := rfl
@[simp] theorem State.setI_dt (i : Word) : (s.setI i).dt = s.dt := rfl
@[simp] theorem State.setI_st (i : Word) : (s.setI i).st = s.st := rfl
@[simp] theorem State.setI_beep (i : Word) : (s.setI i).beep = s.beep := rfl
@[simp] theorem State.setI_draws (i : Word) : (s.setI i).draws = s.draws := rfl
@[simp] theorem State.setI_readV (i : Word) (r : Reg) : (s.setI i).readV r = s.readV r := rfl
@[simp] theorem State.setI_keyDown (i : Word) (k : KeyIx) : (s.setI i).keyDown k = s.keyDown k := rfl

@[simp] theorem State.setPc_v (pc : Word) : (s.setPc pc).v = s.v := rfl
@[simp] theorem State.setPc_i (pc : Word) : (s.setPc pc).i = s.i := rfl
@[simp] theorem State.setPc_pc (pc : Word) : (s.setPc pc).pc = pc := rfl
@[simp] theorem State.setPc_sp (pc : Word) : (s.setPc pc).sp = s.sp := rfl
@[simp] theorem State.setPc_stack (pc : Word) : (s.setPc pc).stack = s.stack := rfl
@[simp] theorem State.setPc_mem (pc : Word) : (s.setPc pc).mem = s.mem := rfl
@[simp] theorem State.setPc_fb (pc : Word) : (s.setPc pc).fb = s.fb := rfl
@[simp] theorem State.setPc_df (pc : Word) : (s.setPc pc).df = s.df := rfl
@[simp] theorem State.setPc_key (pc : Word) : (s.setPc pc).key = s.key := rfl
@[simp] theorem State.setPc_dt (pc : Word) : (s.setPc pc).dt = s.dt := rfl
@[simp] theorem State.setPc_st (pc : Word) : (s.setPc pc).st = s.st := rfl
@[simp] theorem State.setPc_beep (pc : Word) : (s.setPc pc).beep = s.beep := rfl
@[simp] theorem State.setPc_draws (pc : Word) : (s.setPc pc).draws = s.draws := rfl
@[simp] theorem State.setPc_readV (pc : Word) (r : Reg) : (s.setPc pc).readV r = s.readV r := rfl
@[simp] theorem State.setPc_keyDown (pc : Word) (k : KeyIx) : (s.setPc pc).keyDown k = s.keyDown k := rfl

@[simp] theorem State.setSp_v (sp : Fin 17) : (s.setSp sp).v = s.v := rfl
@[simp] theorem State.setSp_i (sp : Fin 17) : (s.setSp sp).i = s.i := rfl
@[simp] theorem State.setSp_pc (sp : Fin 17) : (s.setSp sp).pc = s.pc := rfl
@[simp] theorem State.setSp_sp (sp : Fin 17) : (s.setSp sp).sp = sp := rfl
@[simp] theorem State.setSp_stack (sp : Fin 17) : (s.setSp sp).stack = s.stack := rfl
@[simp] theorem State.setSp_mem (sp : Fin 17) : (s.setSp sp).mem = s.mem := rfl
@[simp] theorem State.setSp_fb (sp : Fin 17) : (s.setSp sp).fb = s.fb := rfl
@[simp] theorem State.setSp_df (sp : Fin 17) : (s.setSp sp).df = s.df := rfl
@[simp] theorem State.setSp_key (sp : Fin 17) : (s.setSp sp).key = s.key := rfl
@[simp] theorem State.setSp_dt (sp : Fin 17) : (s.setSp sp).dt = s.dt := rfl
@[simp] theorem State.setSp_st (sp : Fin 17) : (s.setSp sp).st = s.st := rfl
@[simp] theorem State.setSp_beep (sp : Fin 17) : (s.setSp sp).beep = s.beep := rfl
@[simp] theorem State.setSp_draws (sp : Fin 17) : (s.setSp sp).draws = s.draws := rfl
@[simp] theorem State.setSp_readV (sp : Fin 17) (r : Reg) : (s.setSp sp).readV r = s.readV r := rfl
@[simp] theorem State.setSp_keyDown (sp : Fin 17) (k : KeyIx) : (s.setSp sp).keyDown k = s.keyDown k := rfl

@[simp] theorem State.setStack_v (stack : Vector Word 16) : (s.setStack stack).v = s.v := rfl
@[simp] theorem State.setStack_i (stack : Vector Word 16) : (s.setStack stack).i = s.i := rfl
@[simp] theorem State.setStack_pc (stack : Vector Word 16) : (s.setStack stack).pc = s.pc := rfl
@[simp] theorem State.setStack_sp (stack : Vector Word 16) : (s.setStack stack).sp = s.sp := rfl
@[simp] theorem State.setStack_stack (stack : Vector Word 16) : (s.setStack stack).stack = stack := rfl
@[simp] theorem State.setStack_mem (stack : Vector Word 16) : (s.setStack stack).mem = s.mem := rfl
@[simp] theorem State.setStack_fb (stack : Vector Word 16) : (s.setStack stack).fb = s.fb := rfl
@[simp] theorem State.setStack_df (stack : Vector Word 16) : (s.setStack stack).df = s.df := rfl
@[simp] theorem State.setStack_key (stack : Vector Word 16) : (s.setStack stack).key = s.key := rfl
@[simp] theorem State.setStack_dt (stack : Vector Word 16) : (s.setStack stack).dt = s.dt := rfl
@[simp] theorem State.setStack_st (stack : Vector Word 16) : (s.setStack stack).st = s.st := rfl
@[simp] theorem State.setStack_beep (stack : Vector Word 16) : (s.setStack stack).beep = s.beep := rfl
@[simp] theorem State.setStack_draws (stack : Vector Word 16) : (s.setStack stack).draws = s.draws := rfl
@[simp] theorem State.setStack_readV (stack : Vector Word 16) (r : Reg) : (s.setStack stack).readV r = s.readV r := rfl
@[simp] theorem State.setStack_keyDown (stack : Vector Word 16) (k : KeyIx) : (s.setStack stack).keyDown k = s.keyDown k := rfl

@[simp] theorem State.setMem_v (mem : Memory) : (s.setMem mem).v = s.v := rfl
@[simp] theorem State.setMem_i (mem : Memory) : (s.setMem mem).i = s.i := rfl
@[simp] theorem State.setMem_pc (mem : Memory) : (s.setMem mem).pc = s.pc := rfl
@[simp] theorem State.setMem_sp (mem : Memory) : (s.setMem mem).sp = s.sp := rfl
@[simp] theorem State.setMem_stack (mem : Memory) : (s.setMem mem).stack = s.stack := rfl
@[simp] theorem State.setMem_mem (mem : Memory) : (s.setMem mem).mem = mem := rfl
@[simp] theorem State.setMem_fb (mem : Memory) : (s.setMem mem).fb = s.fb := rfl
@[simp] theorem State.setMem_df (mem : Memory) : (s.setMem mem).df = s.df := rfl
@[simp] theorem State.setMem_key (mem : Memory) : (s.setMem mem).key = s.key := rfl
@[simp] theorem State.setMem_dt (mem : Memory) : (s.setMem mem).dt = s.dt := rfl
@[simp] theorem State.setMem_st (mem : Memory) : (s.setMem mem).st = s.st := rfl
@[simp] theorem State.setMem_beep (mem : Memory) : (s.setMem mem).beep = s.beep := rfl
@[simp] theorem State.setMem_draws (mem : Memory) : (s.setMem mem).draws = s.draws := rfl
@[simp] theorem State.setMem_readV (mem : Memory) (r : Reg) : (s.setMem mem).readV r = s.readV r := rfl
@[simp] theorem State.setMem_keyDown (mem : Memory) (k : KeyIx) : (s.setMem mem).keyDown k = s.keyDown k := rfl

@[simp] theorem State.setFb_v (fb : FrameBuffer) : (s.setFb fb).v = s.v := rfl
@[simp] theorem State.setFb_i (fb : FrameBuffer) : (s.setFb fb).i = s.i := rfl
@[simp] theorem State.setFb_pc (fb : FrameBuffer) : (s.setFb fb).pc = s.pc := rfl
@[simp] theorem State.setFb_sp (fb : FrameBuffer) : (s.setFb fb).sp = s.sp := rfl
@[simp] theorem State.setFb_stack (fb : FrameBuffer) : (s.setFb fb).stack = s.stack := rfl
@[simp] theorem State.setFb_mem (fb : FrameBuffer) : (s.setFb fb).mem = s.mem := rfl
@[simp] theorem State.setFb_fb (fb : FrameBuffer) : (s.setFb fb).fb = fb := rfl
@[simp] theorem State.setFb_df (fb : FrameBuffer) : (s.setFb fb).df = s.df := rfl
@[simp] theorem State.setFb_key (fb : FrameBuffer) : (s.setFb fb).key = s.key := rfl
@[simp] theorem State.setFb_dt (fb : FrameBuffer) : (s.setFb fb).dt = s.dt := rfl
@[simp] theorem State.setFb_st (fb : FrameBuffer) : (s.setFb fb).st = s.st := rfl
@[simp] theorem State.setFb_beep (fb : FrameBuffer) : (s.setFb fb).beep = s.beep := rfl
@[simp] theorem State.setFb_draws (fb : FrameBuffer) : (s.setFb fb).draws = s.draws := rfl
@[simp] theorem State.setFb_readV (fb : FrameBuffer) (r : Reg) : (s.setFb fb).readV r = s.readV r := rfl
@[simp] theorem State.setFb_keyDown (fb : FrameBuffer) (k : KeyIx) : (s.setFb fb).keyDown k = s.keyDown k := rfl

@[simp] theorem State.setDf_v (df : Bool) : (s.setDf df).v = s.v := rfl
@[simp] theorem State.setDf_i (df : Bool) : (s.setDf df).i = s.i := rfl
@[simp] theorem State.setDf_pc (df : Bool) : (s.setDf df).pc = s.pc := rfl
@[simp] theorem State.setDf_sp (df : Bool) : (s.setDf df).sp = s.sp := rfl
@[simp] theorem State.setDf_stack (df : Bool) : (s.setDf df).stack = s.stack := rfl
@[simp] theorem State.setDf_mem (df : Bool) : (s.setDf df).mem = s.mem := rfl
@[simp] theorem State.setDf_fb (df : Bool) : (s.setDf df).fb = s.fb := rfl
@[simp] theorem State.setDf_df (df : Bool) : (s.setDf df).df = df := rfl
@[simp] theorem State.setDf_key (df : Bool) : (s.setDf df).key = s.key := rfl
@[simp] theorem State.setDf_dt (df : Bool) : (s.setDf df).dt = s.dt := rfl
@[simp] theorem State.setDf_st (df : Bool) : (s.setDf df).st = s.st := rfl
@[simp] theorem State.setDf_beep (df : Bool) : (s.setDf df).beep = s.beep := rfl
@[simp] theorem State.setDf_draws (df : Bool) : (s.setDf df).draws = s.draws := rfl
@[simp] theorem State.setDf_readV (df : Bool) (r : Reg) : (s.setDf df).readV r = s.readV r := rfl
@[simp] theorem State.setDf_keyDown (df : Bool) (k : KeyIx) : (s.setDf df).keyDown k = s.keyDown k := rfl

@[simp] theorem State.setKeys_v (key : Vector Bool 16) : (s.setKeys key).v = s.v := rfl
@[simp] theorem State.setKeys_i (key : Vector Bool 16) : (s.setKeys key).i = s.i := rfl
@[simp] theorem State.setKeys_pc (key : Vector Bool 16) : (s.setKeys key).pc = s.pc := rfl
@[simp] theorem State.setKeys_sp (key : Vector Bool 16) : (s.setKeys key).sp = s.sp := rfl
@[simp] theorem State.setKeys_stack (key : Vector Bool 16) : (s.setKeys key).stack = s.stack := rfl
@[simp] theorem State.setKeys_mem (key : Vector Bool 16) : (s.setKeys key).mem = s.mem := rfl
@[simp] theorem State.setKeys_fb (key : Vector Bool 16) : (s.setKeys key).fb = s.fb := rfl
@[simp] theorem State.setKeys_df (key : Vector Bool 16) : (s.setKeys key).df = s.df := rfl
@[simp] theorem State.setKeys_key (key : Vector Bool 16) : (s.setKeys key).key = key := rfl
@[simp] theorem State.setKeys_dt (key : Vector Bool 16) : (s.setKeys key).dt = s.dt := rfl
@[simp] theorem State.setKeys_st (key : Vector Bool 16) : (s.setKeys key).st = s.st := rfl
@[simp] theorem State.setKeys_beep (key : Vector Bool 16) : (s.setKeys key).beep = s.beep := rfl
@[simp] theorem State.setKeys_draws (key : Vector Bool 16) : (s.setKeys key).draws = s.draws := rfl
@[simp] theorem State.setKeys_readV (key : Vector Bool 16) (r : Reg) : (s.setKeys key).readV r = s.readV r := rfl

@[simp] theorem State.setDt_v (dt : Byte) : (s.setDt dt).v = s.v := rfl
@[simp] theorem State.setDt_i (dt : Byte) : (s.setDt dt).i = s.i := rfl
@[simp] theorem State.setDt_pc (dt : Byte) : (s.setDt dt).pc = s.pc := rfl
@[simp] theorem State.setDt_sp (dt : Byte) : (s.setDt dt).sp = s.sp := rfl
@[simp] theorem State.setDt_stack (dt : Byte) : (s.setDt dt).stack = s.stack := rfl
@[simp] theorem State.setDt_mem (dt : Byte) : (s.setDt dt).mem = s.mem := rfl
@[simp] theorem State.setDt_fb (dt : Byte) : (s.setDt dt).fb = s.fb := rfl
@[simp] theorem State.setDt_df (dt : Byte) : (s.setDt dt).df = s.df := rfl
@[simp] theorem State.setDt_key (dt : Byte) : (s.setDt dt).key = s.key := rfl
@[simp] theorem State.setDt_dt (dt : Byte) : (s.setDt dt).dt = dt := rfl
@[simp] theorem State.setDt_st (dt : Byte) : (s.setDt dt).st = s.st := rfl
@[simp] theorem State.setDt_beep (dt : Byte) : (s.setDt dt).beep = s.beep := rfl
@[simp] theorem State.setDt_draws (dt : Byte) : (s.setDt dt).draws = s.draws := rfl
@[simp] theorem State.setDt_readV (dt : Byte) (r : Reg) : (s.setDt dt).readV r = s.readV r := rfl
@[simp] theorem State.setDt_keyDown (dt : Byte) (k : KeyIx) : (s.setDt dt).keyDown k = s.keyDown k := rfl

@[simp] theorem State.setSt_v (st : Byte) : (s.setSt st).v = s.v := rfl
@[simp] theorem State.setSt_i (st : Byte) : (s.setSt st).i = s.i := rfl
@[simp] theorem State.setSt_pc (st : Byte) : (s.setSt st).pc = s.pc := rfl
@[simp] theorem State.setSt_sp (st : Byte) : (s.setSt st).sp = s.sp := rfl
@[simp] theorem State.setSt_stack (st : Byte) : (s.setSt st).stack = s.stack := rfl
@[simp] theorem State.setSt_mem (st : Byte) : (s.setSt st).mem = s.mem := rfl
@[simp] theorem State.setSt_fb (st : Byte) : (s.setSt st).fb = s.fb := rfl
@[simp] theorem State.setSt_df (st : Byte) : (s.setSt st).df = s.df := rfl
@[simp] theorem State.setSt_key (st : Byte) : (s.setSt st).key = s.key := rfl
@[simp] theorem State.setSt_dt (st : Byte) : (s.setSt st).dt = s.dt := rfl
@[simp] theorem State.setSt_st (st : Byte) : (s.setSt st).st = st := rfl
@[simp] theorem State.setSt_beep (st : Byte) : (s.setSt st).beep = s.beep := rfl
@[simp] theorem State.setSt_draws (st : Byte) : (s.setSt st).draws = s.draws := rfl
@[simp] theorem State.setSt_readV (st : Byte) (r : Reg) : (s.setSt st).readV r = s.readV r := rfl
@[simp] theorem State.setSt_keyDown (st : Byte) (k : KeyIx) : (s.setSt st).keyDown k = s.keyDown k := rfl

@[simp] theorem State.setBeep_v (beep : Bool) : (s.setBeep beep).v = s.v := rfl
@[simp] theorem State.setBeep_i (beep : Bool) : (s.setBeep beep).i = s.i := rfl
@[simp] theorem State.setBeep_pc (beep : Bool) : (s.setBeep beep).pc = s.pc := rfl
@[simp] theorem State.setBeep_sp (beep : Bool) : (s.setBeep beep).sp = s.sp := rfl
@[simp] theorem State.setBeep_stack (beep : Bool) : (s.setBeep beep).stack = s.stack := rfl
@[simp] theorem State.setBeep_mem (beep : Bool) : (s.setBeep beep).mem = s.mem := rfl
@[simp] theorem State.setBeep_fb (beep : Bool) : (s.setBeep beep).fb = s.fb := rfl
@[simp] theorem State.setBeep_df (beep : Bool) : (s.setBeep beep).df = s.df := rfl
@[simp] theorem State.setBeep_key (beep : Bool) : (s.setBeep beep).key = s.key := rfl
@[simp] theorem State.setBeep_dt (beep : Bool) : (s.setBeep beep).dt = s.dt := rfl
@[simp] theorem State.setBeep_st (beep : Bool) : (s.setBeep beep).st = s.st := rfl
@[simp] theorem State.setBeep_beep (beep : Bool) : (s.setBeep beep).beep = beep := rfl
@[simp] theorem State.setBeep_draws (beep : Bool) : (s.setBeep beep).draws = s.draws := rfl
@[simp] theorem State.setBeep_readV (beep : Bool) (r : Reg) : (s.setBeep beep).readV r = s.readV r := rfl
@[simp] theorem State.setBeep_keyDown (beep : Bool) (k : KeyIx) : (s.setBeep beep).keyDown k = s.keyDown k := rfl

@[simp] theorem State.setDraws_v (draws : Nat) : (s.setDraws draws).v = s.v := rfl
@[simp] theorem State.setDraws_i (draws : Nat) : (s.setDraws draws).i = s.i := rfl
@[simp] theorem State.setDraws_pc (draws : Nat) : (s.setDraws draws).pc = s.pc := rfl
@[simp] theorem State.setDraws_sp (draws : Nat) : (s.setDraws draws).sp = s.sp := rfl
@[simp] theorem State.setDraws_stack (draws : Nat) : (s.setDraws draws).stack = s.stack := rfl
@[simp] theorem State.setDraws_mem (draws : Nat) : (s.setDraws draws).mem = s.mem := rfl
@[simp] theorem State.setDraws_fb (draws : Nat) : (s.setDraws draws).fb = s.fb := rfl
@[simp] theorem State.setDraws_df (draws : Nat) : (s.setDraws draws).df = s.df := rfl
@[simp] theorem State.setDraws_key (draws : Nat) : (s.setDraws draws).key = s.key := rfl
@[simp] theorem State.setDraws_dt (draws : Nat) : (s.setDraws draws).dt = s.dt := rfl
@[simp] theorem State.setDraws_st (draws : Nat) : (s.setDraws draws).st = s.st := rfl
@[simp] theorem State.setDraws_beep (draws : Nat) : (s.setDraws draws).beep = s.beep := rfl
@[simp] theorem State.setDraws_draws (draws : Nat) : (s.setDraws draws).draws = draws := rfl
@[simp] theorem State.setDraws_readV (draws : Nat) (r : Reg) : (s.setDraws draws).readV r = s.readV r := rfl
@[simp] theorem State.setDraws_keyDown (draws : Nat) (k : KeyIx) : (s.setDraws draws).keyDown k = s.keyDown k := rfl

/-! ## Reading a register that was written -/

theorem State.readV_writeV (r q : Reg) (b : Byte) : (s.writeV r b).readV q = if q = r then b else s.readV q := by
  have hq : q.toNat < 16 := q.isLt
  have hr : r.toNat < 16 := r.isLt
  by_cases h : q = r
  · subst h; simp [State.readV, State.writeV]
  · have hne : r.toNat ≠ q.toNat := fun e => h (BitVec.eq_of_toNat_eq e.symm)
    simp [State.readV, State.writeV, h, Vector.getElem_set_ne hr hq hne]

@[simp] theorem State.readV_writeV_self (r : Reg) (b : Byte) : (s.writeV r b).readV r = b := by
  simp [State.readV_writeV]

theorem State.readV_writeV_ne {r q : Reg} (b : Byte) (h : q ≠ r) : (s.writeV r b).readV q = s.readV q := by
  simp [State.readV_writeV, h]

/-- Two states with the same registers read the same. -/
theorem State.v_ext {s t : State} (h : ∀ r, s.readV r = t.readV r) : s.v = t.v := by
  apply Vector.ext
  intro k hk
  have := h (BitVec.ofNat 4 k)
  have e : (BitVec.ofNat 4 k).toNat = k := by simp; omega
  simpa [State.readV, e] using this

/-! ## The shared operations: the fields they leave alone -/

@[simp] theorem State.writeV_i (r : Reg) (b : Byte) : (s.writeV r b).i = s.i := rfl
@[simp] theorem State.writeV_pc (r : Reg) (b : Byte) : (s.writeV r b).pc = s.pc := rfl
@[simp] theorem State.writeV_sp (r : Reg) (b : Byte) : (s.writeV r b).sp = s.sp := rfl
@[simp] theorem State.writeV_stack (r : Reg) (b : Byte) : (s.writeV r b).stack = s.stack := rfl
@[simp] theorem State.writeV_mem (r : Reg) (b : Byte) : (s.writeV r b).mem = s.mem := rfl
@[simp] theorem State.writeV_fb (r : Reg) (b : Byte) : (s.writeV r b).fb = s.fb := rfl
@[simp] theorem State.writeV_df (r : Reg) (b : Byte) : (s.writeV r b).df = s.df := rfl
@[simp] theorem State.writeV_key (r : Reg) (b : Byte) : (s.writeV r b).key = s.key := rfl
@[simp] theorem State.writeV_dt (r : Reg) (b : Byte) : (s.writeV r b).dt = s.dt := rfl
@[simp] theorem State.writeV_st (r : Reg) (b : Byte) : (s.writeV r b).st = s.st := rfl
@[simp] theorem State.writeV_beep (r : Reg) (b : Byte) : (s.writeV r b).beep = s.beep := rfl
@[simp] theorem State.writeV_draws (r : Reg) (b : Byte) : (s.writeV r b).draws = s.draws := rfl
@[simp] theorem State.writeV_keyDown (r : Reg) (b : Byte) (j : KeyIx) : (s.writeV r b).keyDown j = s.keyDown j := rfl

@[simp] theorem State.writeFlag_i (flag : Bool) : (s.writeFlag flag).i = s.i := rfl
@[simp] theorem State.writeFlag_pc (flag : Bool) : (s.writeFlag flag).pc = s.pc := rfl
@[simp] theorem State.writeFlag_sp (flag : Bool) : (s.writeFlag flag).sp = s.sp := rfl
@[simp] theorem State.writeFlag_stack (flag : Bool) : (s.writeFlag flag).stack = s.stack := rfl
@[simp] theorem State.writeFlag_mem (flag : Bool) : (s.writeFlag flag).mem = s.mem := rfl
@[simp] theorem State.writeFlag_fb (flag : Bool) : (s.writeFlag flag).fb = s.fb := rfl
@[simp] theorem State.writeFlag_df (flag : Bool) : (s.writeFlag flag).df = s.df := rfl
@[simp] theorem State.writeFlag_key (flag : Bool) : (s.writeFlag flag).key = s.key := rfl
@[simp] theorem State.writeFlag_dt (flag : Bool) : (s.writeFlag flag).dt = s.dt := rfl
@[simp] theorem State.writeFlag_st (flag : Bool) : (s.writeFlag flag).st = s.st := rfl
@[simp] theorem State.writeFlag_beep (flag : Bool) : (s.writeFlag flag).beep = s.beep := rfl
@[simp] theorem State.writeFlag_draws (flag : Bool) : (s.writeFlag flag).draws = s.draws := rfl
@[simp] theorem State.writeFlag_keyDown (flag : Bool) (j : KeyIx) : (s.writeFlag flag).keyDown j = s.keyDown j := rfl

@[simp] theorem State.advance_v : s.advance.v = s.v := rfl
@[simp] theorem State.advance_i : s.advance.i = s.i := rfl
@[simp] theorem State.advance_pc : s.advance.pc = s.pc + 2 := rfl
@[simp] theorem State.advance_sp : s.advance.sp = s.sp := rfl
@[simp] theorem State.advance_stack : s.advance.stack = s.stack := rfl
@[simp] theorem State.advance_mem : s.advance.mem = s.mem := rfl
@[simp] theorem State.advance_fb : s.advance.fb = s.fb := rfl
@[simp] theorem State.advance_df : s.advance.df = s.df := rfl
@[simp] theorem State.advance_key : s.advance.key = s.key := rfl
@[simp] theorem State.advance_dt : s.advance.dt = s.dt := rfl
@[simp] theorem State.advance_st : s.advance.st = s.st := rfl
@[simp] theorem State.advance_beep : s.advance.beep = s.beep := rfl
@[simp] theorem State.advance_draws : s.advance.draws = s.draws := rfl
@[simp] theorem State.advance_readV (q : Reg) : s.advance.readV q = s.readV q := rfl
@[simp] theorem State.advance_keyDown (j : KeyIx) : s.advance.keyDown j = s.keyDown j := rfl

@[simp] theorem State.skipIf_v (taken : Bool) : (s.skipIf taken).v = s.v := rfl
@[simp] theorem State.skipIf_i (taken : Bool) : (s.skipIf taken).i = s.i := rfl
@[simp] theorem State.skipIf_pc (taken : Bool) : (s.skipIf taken).pc = if taken then s.pc + 4 else s.pc + 2 := rfl
@[simp] theorem State.skipIf_sp (taken : Bool) : (s.skipIf taken).sp = s.sp := rfl
@[simp] theorem State.skipIf_stack (taken : Bool) : (s.skipIf taken).stack = s.stack := rfl
@[simp] theorem State.skipIf_mem (taken : Bool) : (s.skipIf taken).mem = s.mem := rfl
@[simp] theorem State.skipIf_fb (taken : Bool) : (s.skipIf taken).fb = s.fb := rfl
@[simp] theorem State.skipIf_df (taken : Bool) : (s.skipIf taken).df = s.df := rfl
@[simp] theorem State.skipIf_key (taken : Bool) : (s.skipIf taken).key = s.key := rfl
@[simp] theorem State.skipIf_dt (taken : Bool) : (s.skipIf taken).dt = s.dt := rfl
@[simp] theorem State.skipIf_st (taken : Bool) : (s.skipIf taken).st = s.st := rfl
@[simp] theorem State.skipIf_beep (taken : Bool) : (s.skipIf taken).beep = s.beep := rfl
@[simp] theorem State.skipIf_draws (taken : Bool) : (s.skipIf taken).draws = s.draws := rfl
@[simp] theorem State.skipIf_readV (taken : Bool) (q : Reg) : (s.skipIf taken).readV q = s.readV q := rfl
@[simp] theorem State.skipIf_keyDown (taken : Bool) (j : KeyIx) : (s.skipIf taken).keyDown j = s.keyDown j := rfl

@[simp] theorem State.push_v (w : Word) (h : s.sp.val < 16) : (s.push w h).v = s.v := rfl
@[simp] theorem State.push_i (w : Word) (h : s.sp.val < 16) : (s.push w h).i = s.i := rfl
@[simp] theorem State.push_pc (w : Word) (h : s.sp.val < 16) : (s.push w h).pc = s.pc := rfl
@[simp] theorem State.push_stack (w : Word) (h : s.sp.val < 16) : (s.push w h).stack = s.stack.set s.sp.val w h := rfl
@[simp] theorem State.push_mem (w : Word) (h : s.sp.val < 16) : (s.push w h).mem = s.mem := rfl
@[simp] theorem State.push_fb (w : Word) (h : s.sp.val < 16) : (s.push w h).fb = s.fb := rfl
@[simp] theorem State.push_df (w : Word) (h : s.sp.val < 16) : (s.push w h).df = s.df := rfl
@[simp] theorem State.push_key (w : Word) (h : s.sp.val < 16) : (s.push w h).key = s.key := rfl
@[simp] theorem State.push_dt (w : Word) (h : s.sp.val < 16) : (s.push w h).dt = s.dt := rfl
@[simp] theorem State.push_st (w : Word) (h : s.sp.val < 16) : (s.push w h).st = s.st := rfl
@[simp] theorem State.push_beep (w : Word) (h : s.sp.val < 16) : (s.push w h).beep = s.beep := rfl
@[simp] theorem State.push_draws (w : Word) (h : s.sp.val < 16) : (s.push w h).draws = s.draws := rfl
@[simp] theorem State.push_readV (w : Word) (h : s.sp.val < 16) (q : Reg) : (s.push w h).readV q = s.readV q := rfl
@[simp] theorem State.push_keyDown (w : Word) (h : s.sp.val < 16) (j : KeyIx) : (s.push w h).keyDown j = s.keyDown j := rfl

@[simp] theorem State.drop_v : s.drop.v = s.v := rfl
@[simp] theorem State.drop_i : s.drop.i = s.i := rfl
@[simp] theorem State.drop_pc : s.drop.pc = s.pc := rfl
@[simp] theorem State.drop_stack : s.drop.stack = s.stack := rfl
@[simp] theorem State.drop_mem : s.drop.mem = s.mem := rfl
@[simp] theorem State.drop_fb : s.drop.fb = s.fb := rfl
@[simp] theorem State.drop_df : s.drop.df = s.df := rfl
@[simp] theorem State.drop_key : s.drop.key = s.key := rfl
@[simp] theorem State.drop_dt : s.drop.dt = s.dt := rfl
@[simp] theorem State.drop_st : s.drop.st = s.st := rfl
@[simp] theorem State.drop_beep : s.drop.beep = s.beep := rfl
@[simp] theorem State.drop_draws : s.drop.draws = s.draws := rfl
@[simp] theorem State.drop_readV (q : Reg) : s.drop.readV q = s.readV q := rfl
@[simp] theorem State.drop_keyDown (j : KeyIx) : s.drop.keyDown j = s.keyDown j := rfl

@[simp] theorem State.storeAtI_v (bytes : List Byte) : (s.storeAtI bytes).v = s.v := rfl
@[simp] theorem State.storeAtI_i (bytes : List Byte) : (s.storeAtI bytes).i = s.i := rfl
@[simp] theorem State.storeAtI_pc (bytes : List Byte) : (s.storeAtI bytes).pc = s.pc := rfl
@[simp] theorem State.storeAtI_sp (bytes : List Byte) : (s.storeAtI bytes).sp = s.sp := rfl
@[simp] theorem State.storeAtI_stack (bytes : List Byte) : (s.storeAtI bytes).stack = s.stack := rfl
@[simp] theorem State.storeAtI_mem (bytes : List Byte) : (s.storeAtI bytes).mem = s.mem.writeBytes s.i.toNat bytes := rfl
@[simp] theorem State.storeAtI_fb (bytes : List Byte) : (s.storeAtI bytes).fb = s.fb := rfl
@[simp] theorem State.storeAtI_df (bytes : List Byte) : (s.storeAtI bytes).df = s.df := rfl
@[simp] theorem State.storeAtI_key (bytes : List Byte) : (s.storeAtI bytes).key = s.key := rfl
@[simp] theorem State.storeAtI_dt (bytes : List Byte) : (s.storeAtI bytes).dt = s.dt := rfl
@[simp] theorem State.storeAtI_st (bytes : List Byte) : (s.storeAtI bytes).st = s.st := rfl
@[simp] theorem State.storeAtI_beep (bytes : List Byte) : (s.storeAtI bytes).beep = s.beep := rfl
@[simp] theorem State.storeAtI_draws (bytes : List Byte) : (s.storeAtI bytes).draws = s.draws := rfl
@[simp] theorem State.storeAtI_readV (bytes : List Byte) (q : Reg) : (s.storeAtI bytes).readV q = s.readV q := rfl
@[simp] theorem State.storeAtI_keyDown (bytes : List Byte) (j : KeyIx) : (s.storeAtI bytes).keyDown j = s.keyDown j := rfl

@[simp] theorem State.storeAtPc_v (bytes : List Byte) : (s.storeAtPc bytes).v = s.v := rfl
@[simp] theorem State.storeAtPc_i (bytes : List Byte) : (s.storeAtPc bytes).i = s.i := rfl
@[simp] theorem State.storeAtPc_pc (bytes : List Byte) : (s.storeAtPc bytes).pc = s.pc := rfl
@[simp] theorem State.storeAtPc_sp (bytes : List Byte) : (s.storeAtPc bytes).sp = s.sp := rfl
@[simp] theorem State.storeAtPc_stack (bytes : List Byte) : (s.storeAtPc bytes).stack = s.stack := rfl
@[simp] theorem State.storeAtPc_mem (bytes : List Byte) : (s.storeAtPc bytes).mem = s.mem.writeBytes s.pc.toNat bytes := rfl
@[simp] theorem State.storeAtPc_fb (bytes : List Byte) : (s.storeAtPc bytes).fb = s.fb := rfl
@[simp] theorem State.storeAtPc_df (bytes : List Byte) : (s.storeAtPc bytes).df = s.df := rfl
@[simp] theorem State.storeAtPc_key (bytes : List Byte) : (s.storeAtPc bytes).key = s.key := rfl
@[simp] theorem State.storeAtPc_dt (bytes : List Byte) : (s.storeAtPc bytes).dt = s.dt := rfl
@[simp] theorem State.storeAtPc_st (bytes : List Byte) : (s.storeAtPc bytes).st = s.st := rfl
@[simp] theorem State.storeAtPc_beep (bytes : List Byte) : (s.storeAtPc bytes).beep = s.beep := rfl
@[simp] theorem State.storeAtPc_draws (bytes : List Byte) : (s.storeAtPc bytes).draws = s.draws := rfl
@[simp] theorem State.storeAtPc_readV (bytes : List Byte) (q : Reg) : (s.storeAtPc bytes).readV q = s.readV q := rfl
@[simp] theorem State.storeAtPc_keyDown (bytes : List Byte) (j : KeyIx) : (s.storeAtPc bytes).keyDown j = s.keyDown j := rfl

@[simp] theorem State.passBlock_v (x : Reg) : (s.passBlock x).v = s.v := rfl
@[simp] theorem State.passBlock_i (x : Reg) : (s.passBlock x).i = s.i + BitVec.ofNat 16 (blockLength x) := rfl
@[simp] theorem State.passBlock_pc (x : Reg) : (s.passBlock x).pc = s.pc := rfl
@[simp] theorem State.passBlock_sp (x : Reg) : (s.passBlock x).sp = s.sp := rfl
@[simp] theorem State.passBlock_stack (x : Reg) : (s.passBlock x).stack = s.stack := rfl
@[simp] theorem State.passBlock_mem (x : Reg) : (s.passBlock x).mem = s.mem := rfl
@[simp] theorem State.passBlock_fb (x : Reg) : (s.passBlock x).fb = s.fb := rfl
@[simp] theorem State.passBlock_df (x : Reg) : (s.passBlock x).df = s.df := rfl
@[simp] theorem State.passBlock_key (x : Reg) : (s.passBlock x).key = s.key := rfl
@[simp] theorem State.passBlock_dt (x : Reg) : (s.passBlock x).dt = s.dt := rfl
@[simp] theorem State.passBlock_st (x : Reg) : (s.passBlock x).st = s.st := rfl
@[simp] theorem State.passBlock_beep (x : Reg) : (s.passBlock x).beep = s.beep := rfl
@[simp] theorem State.passBlock_draws (x : Reg) : (s.passBlock x).draws = s.draws := rfl
@[simp] theorem State.passBlock_readV (x : Reg) (q : Reg) : (s.passBlock x).readV q = s.readV q := rfl
@[simp] theorem State.passBlock_keyDown (x : Reg) (j : KeyIx) : (s.passBlock x).keyDown j = s.keyDown j := rfl

@[simp] theorem State.drawn_v : s.drawn.v = s.v := rfl
@[simp] theorem State.drawn_i : s.drawn.i = s.i := rfl
@[simp] theorem State.drawn_pc : s.drawn.pc = s.pc := rfl
@[simp] theorem State.drawn_sp : s.drawn.sp = s.sp := rfl
@[simp] theorem State.drawn_stack : s.drawn.stack = s.stack := rfl
@[simp] theorem State.drawn_mem : s.drawn.mem = s.mem := rfl
@[simp] theorem State.drawn_fb : s.drawn.fb = s.fb := rfl
@[simp] theorem State.drawn_df : s.drawn.df = s.df := rfl
@[simp] theorem State.drawn_key : s.drawn.key = s.key := rfl
@[simp] theorem State.drawn_dt : s.drawn.dt = s.dt := rfl
@[simp] theorem State.drawn_st : s.drawn.st = s.st := rfl
@[simp] theorem State.drawn_beep : s.drawn.beep = s.beep := rfl
@[simp] theorem State.drawn_draws : s.drawn.draws = s.draws + 1 := rfl
@[simp] theorem State.drawn_readV (q : Reg) : s.drawn.readV q = s.readV q := rfl
@[simp] theorem State.drawn_keyDown (j : KeyIx) : s.drawn.keyDown j = s.keyDown j := rfl

@[simp] theorem State.writeKey_v (k : KeyIx) (pressed : Bool) : (s.writeKey k pressed).v = s.v := rfl
@[simp] theorem State.writeKey_i (k : KeyIx) (pressed : Bool) : (s.writeKey k pressed).i = s.i := rfl
@[simp] theorem State.writeKey_pc (k : KeyIx) (pressed : Bool) : (s.writeKey k pressed).pc = s.pc := rfl
@[simp] theorem State.writeKey_sp (k : KeyIx) (pressed : Bool) : (s.writeKey k pressed).sp = s.sp := rfl
@[simp] theorem State.writeKey_stack (k : KeyIx) (pressed : Bool) : (s.writeKey k pressed).stack = s.stack := rfl
@[simp] theorem State.writeKey_mem (k : KeyIx) (pressed : Bool) : (s.writeKey k pressed).mem = s.mem := rfl
@[simp] theorem State.writeKey_fb (k : KeyIx) (pressed : Bool) : (s.writeKey k pressed).fb = s.fb := rfl
@[simp] theorem State.writeKey_df (k : KeyIx) (pressed : Bool) : (s.writeKey k pressed).df = s.df := rfl
@[simp] theorem State.writeKey_dt (k : KeyIx) (pressed : Bool) : (s.writeKey k pressed).dt = s.dt := rfl
@[simp] theorem State.writeKey_st (k : KeyIx) (pressed : Bool) : (s.writeKey k pressed).st = s.st := rfl
@[simp] theorem State.writeKey_beep (k : KeyIx) (pressed : Bool) : (s.writeKey k pressed).beep = s.beep := rfl
@[simp] theorem State.writeKey_draws (k : KeyIx) (pressed : Bool) : (s.writeKey k pressed).draws = s.draws := rfl
@[simp] theorem State.writeKey_readV (k : KeyIx) (pressed : Bool) (q : Reg) : (s.writeKey k pressed).readV q = s.readV q := rfl

@[simp] theorem State.push_sp_val (w : Word) (h : s.sp.val < 16) : (s.push w h).sp.val = s.sp.val + 1 := rfl

@[simp] theorem State.drop_sp_val : s.drop.sp.val = s.sp.val - 1 := rfl

theorem State.readV_writeFlag (flag : Bool) (q : Reg) :
    (s.writeFlag flag).readV q = if q = VF then flagByte flag else s.readV q := by
  simp [State.writeFlag, State.readV_writeV]

@[simp] theorem State.readV_writeFlag_VF (flag : Bool) : (s.writeFlag flag).readV VF = flagByte flag := by
  simp [State.readV_writeFlag]

theorem State.keyDown_writeKey (k j : KeyIx) (pressed : Bool) :
    (s.writeKey k pressed).keyDown j = if j = k then pressed else s.keyDown j := by
  have hj : j.toNat < 16 := j.isLt
  have hk : k.toNat < 16 := k.isLt
  by_cases h : j = k
  · subst h; simp [State.keyDown, State.writeKey]
  · have hne : k.toNat ≠ j.toNat := fun e => h (BitVec.eq_of_toNat_eq e.symm)
    simp [State.keyDown, State.writeKey, h, Vector.getElem_set_ne hk hj hne]

/-! ## Writing a block of registers (FX65) -/

@[simp] theorem State.writeBlock_i (f : Nat → Byte) (n : Nat) : (s.writeBlock f n).i = s.i := by
  induction n with
  | zero => rfl
  | succ n ih => simpa [State.writeBlock] using ih
@[simp] theorem State.writeBlock_pc (f : Nat → Byte) (n : Nat) : (s.writeBlock f n).pc = s.pc := by
  induction n with
  | zero => rfl
  | succ n ih => simpa [State.writeBlock] using ih
@[simp] theorem State.writeBlock_sp (f : Nat → Byte) (n : Nat) : (s.writeBlock f n).sp = s.sp := by
  induction n with
  | zero => rfl
  | succ n ih => simpa [State.writeBlock] using ih
@[simp] theorem State.writeBlock_stack (f : Nat → Byte) (n : Nat) : (s.writeBlock f n).stack = s.stack := by
  induction n with
  | zero => rfl
  | succ n ih => simpa [State.writeBlock] using ih
@[simp] theorem State.writeBlock_mem (f : Nat → Byte) (n : Nat) : (s.writeBlock f n).mem = s.mem := by
  induction n with
  | zero => rfl
  | succ n ih => simpa [State.writeBlock] using ih
@[simp] theorem State.writeBlock_fb (f : Nat → Byte) (n : Nat) : (s.writeBlock f n).fb = s.fb := by
  induction n with
  | zero => rfl
  | succ n ih => simpa [State.writeBlock] using ih
@[simp] theorem State.writeBlock_df (f : Nat → Byte) (n : Nat) : (s.writeBlock f n).df = s.df := by
  induction n with
  | zero => rfl
  | succ n ih => simpa [State.writeBlock] using ih
@[simp] theorem State.writeBlock_key (f : Nat → Byte) (n : Nat) : (s.writeBlock f n).key = s.key := by
  induction n with
  | zero => rfl
  | succ n ih => simpa [State.writeBlock] using ih
@[simp] theorem State.writeBlock_dt (f : Nat → Byte) (n : Nat) : (s.writeBlock f n).dt = s.dt := by
  induction n with
  | zero => rfl
  | succ n ih => simpa [State.writeBlock] using ih
@[simp] theorem State.writeBlock_st (f : Nat → Byte) (n : Nat) : (s.writeBlock f n).st = s.st := by
  induction n with
  | zero => rfl
  | succ n ih => simpa [State.writeBlock] using ih
@[simp] theorem State.writeBlock_beep (f : Nat → Byte) (n : Nat) : (s.writeBlock f n).beep = s.beep := by
  induction n with
  | zero => rfl
  | succ n ih => simpa [State.writeBlock] using ih
@[simp] theorem State.writeBlock_draws (f : Nat → Byte) (n : Nat) : (s.writeBlock f n).draws = s.draws := by
  induction n with
  | zero => rfl
  | succ n ih => simpa [State.writeBlock] using ih

@[simp] theorem State.writeBlock_keyDown (f : Nat → Byte) (n : Nat) (j : KeyIx) :
    (s.writeBlock f n).keyDown j = s.keyDown j := by
  simp [State.keyDown]

/-- After the block of n registers is written, register q holds `f q` when q is in the block, else what it held. -/
theorem State.readV_writeBlock (f : Nat → Byte) (n : Nat) (hn : n ≤ 16) (q : Reg) :
    (s.writeBlock f n).readV q = if q.toNat < n then f q.toNat else s.readV q := by
  induction n with
  | zero => simp [State.writeBlock]
  | succ n ih =>
    have e : (BitVec.ofNat 4 n).toNat = n := by simp; omega
    rw [State.writeBlock, State.readV_writeV, ih (by omega)]
    by_cases h : q = BitVec.ofNat 4 n
    · subst h; simp [e]
    · have hne : q.toNat ≠ n := fun e' => h (BitVec.eq_of_toNat_eq (by rw [e, e']))
      by_cases hlt : q.toNat < n
      · simp [h, hlt, Nat.lt_succ_of_lt hlt]
      · have : ¬ q.toNat < n + 1 := by omega
        simp [h, hlt, this]

/-! ## The state after a reset (rule R25) -/

@[simp] theorem State.resetWith_v (font memInit : List Byte) :
    (State.resetWith font memInit).v = Vector.replicate 16 0 := rfl
@[simp] theorem State.resetWith_i (font memInit : List Byte) : (State.resetWith font memInit).i = 0 := rfl
@[simp] theorem State.resetWith_pc (font memInit : List Byte) : (State.resetWith font memInit).pc = 0 := rfl
@[simp] theorem State.resetWith_sp (font memInit : List Byte) : (State.resetWith font memInit).sp = 0 := rfl
@[simp] theorem State.resetWith_stack (font memInit : List Byte) :
    (State.resetWith font memInit).stack = Vector.replicate 16 0 := rfl
@[simp] theorem State.resetWith_mem (font memInit : List Byte) :
    (State.resetWith font memInit).mem = Memory.ofContents (resetContents font memInit) := State.setMem_mem _ _
@[simp] theorem State.resetWith_fb (font memInit : List Byte) :
    (State.resetWith font memInit).fb = Vector.replicate 32 0 := rfl
@[simp] theorem State.resetWith_df (font memInit : List Byte) : (State.resetWith font memInit).df = false := rfl
@[simp] theorem State.resetWith_key (font memInit : List Byte) :
    (State.resetWith font memInit).key = Vector.replicate 16 false := rfl
@[simp] theorem State.resetWith_dt (font memInit : List Byte) : (State.resetWith font memInit).dt = 0 := rfl
@[simp] theorem State.resetWith_st (font memInit : List Byte) : (State.resetWith font memInit).st = 0 := rfl
@[simp] theorem State.resetWith_beep (font memInit : List Byte) : (State.resetWith font memInit).beep = false := rfl
@[simp] theorem State.resetWith_draws (font memInit : List Byte) : (State.resetWith font memInit).draws = 0 := rfl

@[simp] theorem length_classicFont : classicFont.length = Config.fontSize := rfl

end Sys2Proof.Machine
end

