-- ==== Sys2Proof/Laws/Ops.lean ====
section
/-! SUPPORT. One lemma per shared operation that says everything it can do: the range check, the stack, the fetch, the
keys, the flag byte, the operand forms, and the step itself. -/

namespace Sys2Proof.Machine

/-! ## The range check -/

theorem outOfRange_eq_none (a len : Nat) : outOfRange a len = none ↔ (1 ≤ len → a + len ≤ Config.memSize) := by
  unfold outOfRange
  split <;> simp <;> omega

theorem outOfRange_eq_some (a len addr : Nat) :
    outOfRange a len = some addr ↔ 1 ≤ len ∧ Config.memSize < a + len ∧ addr = max a Config.memSize := by
  unfold outOfRange
  split
  · simp only [Option.some.injEq]
    constructor
    · rintro rfl
      exact ⟨by omega, by omega, rfl⟩
    · rintro ⟨_, _, rfl⟩
      rfl
  · simp only [reduceCtorEq, false_iff]
    rintro ⟨_, _, _⟩
    omega

/-- With every byte in range the check is passed. -/
theorem checkRange_ok (i : Instr) (s : State) (len : Nat) (k : Result) (h : 1 ≤ len → s.i.toNat + len ≤ Config.memSize) :
    checkRange i s len k = k := by
  simp [checkRange, (outOfRange_eq_none _ _).2 h]

/-- With a byte out of range the instruction faults at the lowest such address. -/
theorem checkRange_fault (i : Instr) (s : State) (len : Nat) (k : Result) (h1 : 1 ≤ len)
    (h : Config.memSize < s.i.toNat + len) :
    checkRange i s len k =
      .fault (.addressOutOfRange s.pc (some (encode i)) (max s.i.toNat Config.memSize)) := by
  simp [checkRange, (outOfRange_eq_some _ _ _).2 ⟨h1, h, rfl⟩, raise]

/-- A checked instruction completes only when every byte is in range, and then as it says. -/
theorem checkRange_next {i : Instr} {s t : State} {len : Nat} {k : Result} (h : checkRange i s len k = .next t) :
    (1 ≤ len → s.i.toNat + len ≤ Config.memSize) ∧ k = .next t := by
  unfold checkRange at h
  split at h
  · simp [raise] at h
  · rename_i hn
    exact ⟨(outOfRange_eq_none _ _).1 hn, h⟩

/-! ## The stack -/

theorem State.stack_push (s : State) (w : Word) (h : s.sp.val < 16) (k : Fin 16) :
    (s.push w h).stack[k] = if k.val = s.sp.val then w else s.stack[k] := by
  by_cases e : k.val = s.sp.val
  · simp [e]
  · have : s.sp.val ≠ k.val := fun e' => e e'.symm
    simp [e, Vector.getElem_set_ne _ _ this]

/-- What was pushed is on top. -/
theorem State.top_push (s : State) (w : Word) (h : s.sp.val < 16) (h' : 0 < (s.push w h).sp.val) :
    (s.push w h).top h' = w := by
  simp [State.top]

/-- The top of the stack is one of its entries. -/
theorem State.top_eq (s : State) (h : 0 < s.sp.val) :
    ∃ k : Fin 16, k.val = s.sp.val - 1 ∧ s.top h = s.stack[k] :=
  ⟨⟨s.sp.val - 1, by omega⟩, rfl, rfl⟩

/-! ## Fetch (rule R61) -/

theorem State.memRead_ok (s : State) {a : Nat} (h : a < Config.memSize) : s.memRead a = .ok (s.mem.read a) := by
  rw [State.memRead, if_pos h]

theorem State.memRead_error (s : State) {a : Nat} (h : Config.memSize ≤ a) : s.memRead a = .error a := by
  rw [State.memRead, if_neg (by omega)]

/-- A fetch from PC at most 0xFFE reads the two bytes there, high byte first. -/
theorem State.fetchWord_ok (s : State) (h : s.pc.toNat + 1 < Config.memSize) :
    s.fetchWord = .ok (wordOf (s.mem.read s.pc.toNat) (s.mem.read (s.pc.toNat + 1))) := by
  simp [State.fetchWord, s.memRead_ok h, s.memRead_ok (show s.pc.toNat < Config.memSize by omega)]

/-- A fetch succeeds only from PC at most 0xFFE. -/
theorem State.fetchWord_eq_ok {s : State} {w : Word} (h : s.fetchWord = .ok w) :
    s.pc.toNat + 1 < Config.memSize ∧ w = wordOf (s.mem.read s.pc.toNat) (s.mem.read (s.pc.toNat + 1)) := by
  by_cases hb : s.pc.toNat + 1 < Config.memSize
  · rw [s.fetchWord_ok hb] at h
    exact ⟨hb, by simpa using h.symm⟩
  · exfalso
    unfold State.fetchWord at h
    rw [s.memRead_error (show Config.memSize ≤ s.pc.toNat + 1 by omega)] at h
    split at h <;> simp at h

/-! ## The step (rule R70) -/

/-- A step runs the instruction it decodes. -/
theorem step_decoded {s : State} {w : Word} {i : Instr} (hf : s.fetchWord = .ok w) (hd : decode w = .ok i) :
    step s = exec i s := by
  simp [step, hf, hd]

/-- Everything a step that answers a next state can be: an instruction executed, or the no-op of a word that is none. -/
theorem step_cases {s t : State} (h : step s = .next t) :
    (∃ w i, s.fetchWord = .ok w ∧ decode w = .ok i ∧ exec i s = .next t) ∨
    (∃ w, s.fetchWord = .ok w ∧ decode w = .error (.unrecognized w) ∧ t = s.advance) := by
  unfold step at h
  split at h
  · simp [raise] at h
  · rename_i w hw
    split at h
    · rename_i i hi
      exact .inl ⟨w, i, hw, hi, h⟩
    · rename_i e he
      have := decode_error w e he
      subst this
      exact .inr ⟨w, hw, he, by simpa [execUnrecognized] using h.symm⟩

/-! ## Keys -/

/-- The least key down is down, and no lower key is. -/
theorem State.firstKey_eq_some {s : State} {k : KeyIx} (h : s.firstKey = some k) :
    s.keyDown k = true ∧ ∀ j : KeyIx, j < k → s.keyDown j = false := by
  unfold State.firstKey at h
  rw [List.find?_eq_some_iff_append] at h
  obtain ⟨hk, as, bs, hl, has⟩ := h
  refine ⟨hk, fun j hj => ?_⟩
  have hsorted : List.Pairwise (· < ·) ((List.range 16).map (BitVec.ofNat 4)) := by decide
  have hj' : j ∈ (List.range 16).map (BitVec.ofNat 4) :=
    List.mem_map.2 ⟨j.toNat, List.mem_range.2 j.isLt, by simp⟩
  rw [hl] at hj' hsorted
  rcases List.mem_append.1 hj' with hm | hm
  · simpa using has j hm
  · exfalso
    have hp := (List.pairwise_append.1 hsorted).2.1
    rcases List.mem_cons.1 hm with rfl | hm
    · exact absurd hj (by simp)
    · have := List.rel_of_pairwise_cons hp hm
      rw [BitVec.lt_def] at this hj
      omega

/-- There is no least key down exactly when no key is down. -/
theorem State.firstKey_eq_none {s : State} : s.firstKey = none ↔ ∀ k, s.keyDown k = false := by
  unfold State.firstKey
  rw [List.find?_eq_none]
  constructor
  · intro h k
    have := h k (List.mem_map.2 ⟨k.toNat, List.mem_range.2 k.isLt, by simp⟩)
    simpa using this
  · intro h k _
    simp [h k]

/-! ## Flags and operands as numbers -/

@[simp] theorem toNat_flagByte (b : Bool) : (flagByte b).toNat = if b then 1 else 0 := by
  cases b <;> rfl

@[simp] theorem toNat_addressOf (nnn : Imm12) : (addressOf nnn).toNat = nnn.toNat := by
  have := nnn.isLt
  simp [addressOf]
  omega

@[simp] theorem toNat_lowNibble (a : Byte) : (lowNibble a).toNat = a.toNat % 16 := by
  simp [lowNibble]

@[simp] theorem toNat_glyphAddress (d : Nibble) : (glyphAddress d).toNat = 5 * d.toNat := by
  have := d.isLt
  simp [glyphAddress, Config.fontBase, Config.glyphBytes]
  omega

theorem toNat_advance (s : State) (h : s.pc.toNat ≤ 0xFFE) : s.advance.pc.toNat = s.pc.toNat + 2 := by
  simp [BitVec.toNat_add]
  omega

theorem toNat_skipIf (s : State) (taken : Bool) (h : s.pc.toNat ≤ 0xFFE) :
    (s.skipIf taken).pc.toNat = s.pc.toNat + (if taken then 4 else 2) := by
  cases taken <;> simp [BitVec.toNat_add] <;> omega

@[simp] theorem State.length_block (s : State) (x : Reg) : (s.block x).length = blockLength x := by
  simp [State.block, blockLength]

/-- Byte k of the block FX55 stores is V[k]. -/
theorem State.getD_block (s : State) (x r : Reg) (h : r.toNat ≤ x.toNat) : (s.block x).getD r.toNat 0 = s.readV r := by
  have hlt : r.toNat < x.toNat + 1 := by omega
  simp [State.block, hlt]

@[simp] theorem length_decimalDigits (a : Byte) : (decimalDigits a).length = 3 := rfl

end Sys2Proof.Machine
end

