-- ==== Sys2Proof/Laws/PerInstr.lean ====
section
/-! SUPPORT. The per-instruction family OwnRow: the encoder puts an instruction's operands nowhere on the fixed bits of
its row of the opcode map (rules R65, R68), and the word passes the check of rule R66. One lemma per constructor. -/

namespace Sys2Proof.Laws.OwnRow

/-- The word of `i` carries the fixed bits of its row, and the check of words accepts it. -/
def Statement (i : Instr) : Prop := encode i &&& i.row.mask = i.row.pattern ∧ wordWellFormed (encode i) = true

theorem ofDigits (f n : Nibble) (x y : Reg) : encXYN f x y n &&& 0xF00F = encXYN f 0 0 n := by
  rw [mask_digit]; simp
theorem ofByte (f : Nibble) (x : Reg) (b : Byte) : encXNN f x b &&& 0xF0FF = encXNN f 0 b := by
  rw [mask_byte]; simp
theorem ofFamily (f : Nibble) (nnn : Imm12) : encNNN f nnn &&& 0xF000 = encXYN f 0 0 0 := by
  rw [mask_family]; simp
theorem ofFamily' (f : Nibble) (x : Reg) (b : Byte) : encXNN f x b &&& 0xF000 = encXYN f 0 0 0 := by
  rw [mask_family]; simp
theorem ofFamily'' (f n : Nibble) (x y : Reg) : encXYN f x y n &&& 0xF000 = encXYN f 0 0 0 := by
  rw [mask_family]; simp

theorem family_nnn {f : Nibble} {nnn : Imm12} : (encNNN f nnn).toNat / 4096 = f.toNat := by
  rw [← toNat_fieldFamily]; simp
theorem family_xnn {f : Nibble} {x : Reg} {b : Byte} : (encXNN f x b).toNat / 4096 = f.toNat := by
  rw [← toNat_fieldFamily]; simp
theorem family_xyn {f n : Nibble} {x y : Reg} : (encXYN f x y n).toNat / 4096 = f.toNat := by
  rw [← toNat_fieldFamily]; simp
theorem low_xnn {f : Nibble} {x : Reg} {b : Byte} : (encXNN f x b).toNat % 256 = b.toNat := by
  rw [← toNat_fieldNN]; simp
theorem low_xyn {f n : Nibble} {x y : Reg} : (encXYN f x y n).toNat % 16 = n.toNat := by
  rw [← toNat_fieldN]; simp

theorem wf_nnn {f : Nibble} {nnn : Imm12} (h : f ∈ [1, 2, 0xA, 0xB]) : wordWellFormed (encNNN f nnn) = true := by
  simp only [wordWellFormed, family_nnn]
  simp at h
  rcases h with rfl | rfl | rfl | rfl <;> simp
theorem wf_xnn {f : Nibble} {x : Reg} {b : Byte} (h : f ∈ [3, 4, 6, 7, 0xC]) :
    wordWellFormed (encXNN f x b) = true := by
  simp only [wordWellFormed, family_xnn]
  simp at h
  rcases h with rfl | rfl | rfl | rfl | rfl <;> simp
theorem wf_x {f : Nibble} {x : Reg} {b : Byte}
    (h : (f = 0xE ∧ b ∈ [0x9E, 0xA1]) ∨ (f = 0xF ∧ b ∈ [0x07, 0x0A, 0x15, 0x18, 0x1E, 0x29, 0x33, 0x55, 0x65])) :
    wordWellFormed (encXNN f x b) = true := by
  simp only [wordWellFormed, family_xnn, low_xnn]
  rcases h with ⟨rfl, h⟩ | ⟨rfl, h⟩ <;> simp at h
  · rcases h with rfl | rfl <;> simp
  · rcases h with rfl | rfl | rfl | rfl | rfl | rfl | rfl | rfl | rfl <;> simp
theorem wf_xy {f n : Nibble} {x y : Reg}
    (h : (f ∈ [5, 9] ∧ n = 0) ∨ (f = 8 ∧ n ∈ [0, 1, 2, 3, 4, 5, 6, 7, 0xE]) ∨ f = 0xD) :
    wordWellFormed (encXYN f x y n) = true := by
  simp only [wordWellFormed, family_xyn, low_xyn]
  rcases h with ⟨hf, rfl⟩ | ⟨rfl, h⟩ | rfl
  · simp at hf
    rcases hf with rfl | rfl <;> simp
  · simp at h
    rcases h with rfl | rfl | rfl | rfl | rfl | rfl | rfl | rfl | rfl <;> simp
  · simp

theorem op00E0 : Statement (.op00E0) := ⟨by decide, by decide⟩
theorem op00EE : Statement (.op00EE) := ⟨by decide, by decide⟩
theorem op1NNN (nnn : Imm12) : Statement (.op1NNN nnn) := ⟨ofFamily .., wf_nnn (by decide)⟩
theorem op2NNN (nnn : Imm12) : Statement (.op2NNN nnn) := ⟨ofFamily .., wf_nnn (by decide)⟩
theorem op3XNN (x : Reg) (nn : Byte) : Statement (.op3XNN x nn) := ⟨ofFamily' .., wf_xnn (by decide)⟩
theorem op4XNN (x : Reg) (nn : Byte) : Statement (.op4XNN x nn) := ⟨ofFamily' .., wf_xnn (by decide)⟩
theorem op5XY0 (x y : Reg) : Statement (.op5XY0 x y) := ⟨ofDigits .., wf_xy (by decide)⟩
theorem op9XY0 (x y : Reg) : Statement (.op9XY0 x y) := ⟨ofDigits .., wf_xy (by decide)⟩
theorem op6XNN (x : Reg) (nn : Byte) : Statement (.op6XNN x nn) := ⟨ofFamily' .., wf_xnn (by decide)⟩
theorem op7XNN (x : Reg) (nn : Byte) : Statement (.op7XNN x nn) := ⟨ofFamily' .., wf_xnn (by decide)⟩
theorem op8XY0 (x y : Reg) : Statement (.op8XY0 x y) := ⟨ofDigits .., wf_xy (by decide)⟩
theorem op8XY1 (x y : Reg) : Statement (.op8XY1 x y) := ⟨ofDigits .., wf_xy (by decide)⟩
theorem op8XY2 (x y : Reg) : Statement (.op8XY2 x y) := ⟨ofDigits .., wf_xy (by decide)⟩
theorem op8XY3 (x y : Reg) : Statement (.op8XY3 x y) := ⟨ofDigits .., wf_xy (by decide)⟩
theorem op8XY4 (x y : Reg) : Statement (.op8XY4 x y) := ⟨ofDigits .., wf_xy (by decide)⟩
theorem op8XY5 (x y : Reg) : Statement (.op8XY5 x y) := ⟨ofDigits .., wf_xy (by decide)⟩
theorem op8XY6 (x y : Reg) : Statement (.op8XY6 x y) := ⟨ofDigits .., wf_xy (by decide)⟩
theorem op8XY7 (x y : Reg) : Statement (.op8XY7 x y) := ⟨ofDigits .., wf_xy (by decide)⟩
theorem op8XYE (x y : Reg) : Statement (.op8XYE x y) := ⟨ofDigits .., wf_xy (by decide)⟩
theorem opANNN (nnn : Imm12) : Statement (.opANNN nnn) := ⟨ofFamily .., wf_nnn (by decide)⟩
theorem opBNNN (nnn : Imm12) : Statement (.opBNNN nnn) := ⟨ofFamily .., wf_nnn (by decide)⟩
theorem opCXNN (x : Reg) (nn : Byte) : Statement (.opCXNN x nn) := ⟨ofFamily' .., wf_xnn (by decide)⟩
theorem opDXYN (x y : Reg) (n : Nibble) : Statement (.opDXYN x y n) := ⟨ofFamily'' .., wf_xy (.inr (.inr rfl))⟩
theorem opEX9E (x : Reg) : Statement (.opEX9E x) := ⟨ofByte .., wf_x (by decide)⟩
theorem opEXA1 (x : Reg) : Statement (.opEXA1 x) := ⟨ofByte .., wf_x (by decide)⟩
theorem opFX07 (x : Reg) : Statement (.opFX07 x) := ⟨ofByte .., wf_x (by decide)⟩
theorem opFX0A (x : Reg) : Statement (.opFX0A x) := ⟨ofByte .., wf_x (by decide)⟩
theorem opFX15 (x : Reg) : Statement (.opFX15 x) := ⟨ofByte .., wf_x (by decide)⟩
theorem opFX18 (x : Reg) : Statement (.opFX18 x) := ⟨ofByte .., wf_x (by decide)⟩
theorem opFX1E (x : Reg) : Statement (.opFX1E x) := ⟨ofByte .., wf_x (by decide)⟩
theorem opFX29 (x : Reg) : Statement (.opFX29 x) := ⟨ofByte .., wf_x (by decide)⟩
theorem opFX33 (x : Reg) : Statement (.opFX33 x) := ⟨ofByte .., wf_x (by decide)⟩
theorem opFX55 (x : Reg) : Statement (.opFX55 x) := ⟨ofByte .., wf_x (by decide)⟩
theorem opFX65 (x : Reg) : Statement (.opFX65 x) := ⟨ofByte .., wf_x (by decide)⟩

end Sys2Proof.Laws.OwnRow
end

