-- ==== Sys2Proof/Laws/Session.lean ====
section
/-! SUPPORT. What a host operation can do to a session, said once; performing one, running a list of them, and the prefixes
of an infinite sequence. -/

namespace Sys2Proof.Machine

/-- Everything an operation that completes can be: each with its duty met and the session it leaves. -/
theorem Session.apply_cases {p q : Session} {o : HostOp} (h : p.apply o = .next q) :
    (∃ font memInit, o = .reset font memInit ∧ q = ⟨.fresh, (State.resetWith font memInit).setDraws p.state.draws⟩) ∨
    (∃ bytes, o = .loadProgram bytes ∧ p.phase = .fresh ∧ programFits bytes = true ∧
      q = ⟨.ready, (p.state.setMem (p.state.mem.writeBytes Config.progBase bytes)).setPc (BitVec.ofNat 16 Config.progBase)⟩) ∨
    (o = .step ∧ p.phase = .ready ∧ ∃ t, Machine.step p.state = .next t ∧ q = ⟨.ready, t⟩) ∨
    (o = .tick ∧ q = ⟨p.phase, Machine.tick p.state⟩) ∨
    (∃ index pressed, o = .setKey index pressed ∧ keyIndexOk index = true ∧
      q = ⟨p.phase, p.state.writeKey (BitVec.ofNat 4 index) pressed⟩) ∨
    (o = .isRedrawOwed ∧ q = ⟨p.phase, p.state.setDf false⟩) ∨
    (∃ x y, o = .pixelAt x y ∧ pixelOk x y = true ∧ q = p) ∨
    (o = .onBeepEdge ∧ q = p) := by
  obtain ⟨phase, s⟩ := p
  cases o with
  | reset font memInit => exact .inl ⟨font, memInit, rfl, by simpa [Session.apply] using h.symm⟩
  | loadProgram bytes =>
    cases phase with
    | fresh =>
      cases hb : programFits bytes <;> simp [Session.apply, loadProgram, hb, Session.lift, raise] at h
      exact .inr (.inl ⟨bytes, rfl, rfl, hb, h.symm⟩)
    | ready => simp [Session.apply] at h
  | step =>
    cases phase with
    | fresh => simp [Session.apply] at h
    | ready =>
      cases hs : Machine.step s <;> simp [Session.apply, hs, Session.lift] at h
      exact .inr (.inr (.inl ⟨rfl, rfl, _, rfl, h.symm⟩))
  | tick => exact .inr (.inr (.inr (.inl ⟨rfl, by simpa [Session.apply] using h.symm⟩)))
  | setKey index pressed =>
    cases hk : keyIndexOk index <;> simp [Session.apply, setKey, hk, Session.lift] at h
    exact .inr (.inr (.inr (.inr (.inl ⟨index, pressed, rfl, hk, h.symm⟩))))
  | isRedrawOwed =>
    exact .inr (.inr (.inr (.inr (.inr (.inl ⟨rfl, by simpa [Session.apply, isRedrawOwed] using h.symm⟩)))))
  | pixelAt x y =>
    cases hp : pixelOk x y <;> simp [Session.apply, pixelAt, hp] at h
    exact .inr (.inr (.inr (.inr (.inr (.inr (.inl ⟨x, y, rfl, hp, h.symm⟩))))))
  | onBeepEdge => exact .inr (.inr (.inr (.inr (.inr (.inr (.inr ⟨rfl, by simpa [Session.apply] using h.symm⟩))))))

/-- Everything a performed operation can be: it completed, or it faulted and left the session as it was. -/
theorem Session.perform_eq_ok {p q : Session} {o : HostOp} {reply : Reply} :
    p.perform o = .ok (q, reply) ↔
      (p.apply o = .next q ∨ q = p ∧ ∃ f, p.apply o = .fault f) ∧ reply = p.reply o := by
  unfold Session.perform
  cases h : p.apply o <;> simp [eq_comm]

@[simp] theorem Session.run_nil (p : Session) : p.run [] = .ok (p, []) := rfl

/-- A run completes exactly when its first operation does and the rest does from the session that leaves. -/
theorem Session.run_cons_eq_ok {p q : Session} {o : HostOp} {os : List HostOp} {replies : List Reply} :
    p.run (o :: os) = .ok (q, replies) ↔
      ∃ m reply rest, p.perform o = .ok (m, reply) ∧ m.run os = .ok (q, rest) ∧ replies = reply :: rest := by
  rw [Session.run]
  split
  · rename_i h
    simp [h]
  · rename_i m reply h
    split
    · rename_i h'
      simp only [h, Except.ok.injEq, Prod.mk.injEq, reduceCtorEq, false_iff]
      rintro ⟨_, _, _, ⟨rfl, rfl⟩, h'', _⟩
      rw [h'] at h''
      exact absurd h'' (by simp)
    · rename_i last rest h'
      simp only [h, Except.ok.injEq, Prod.mk.injEq]
      constructor
      · rintro ⟨rfl, rfl⟩
        exact ⟨m, reply, rest, ⟨rfl, rfl⟩, h', rfl⟩
      · rintro ⟨_, _, _, ⟨rfl, rfl⟩, h'', rfl⟩
        rw [h'] at h''
        simpa [eq_comm] using h''

@[simp] theorem Session.before_zero (p : Session) (ops : Schedule) : p.before ops 0 = .ok p := rfl

/-- The session before operation n + 1 is what operation n leaves. -/
theorem Session.before_succ_eq_ok {p q : Session} {ops : Schedule} {n : Nat} :
    p.before ops (n + 1) = .ok q ↔
      ∃ m reply, p.before ops n = .ok m ∧ m.perform (ops n) = .ok (q, reply) := by
  rw [Session.before]
  split
  · rename_i h
    simp [h]
  · rename_i m h
    simp only [h, Except.ok.injEq]
    split
    · rename_i h'
      simp [h']
    · rename_i q' reply h'
      simp [h', eq_comm]

/-- The first operation of an infinite sequence, and the rest of it. -/
theorem Session.before_shift {p m : Session} {ops : Schedule} {reply : Reply} (h : p.perform (ops 0) = .ok (m, reply))
    (n : Nat) : p.before ops (n + 1) = m.before (fun k => ops (k + 1)) n := by
  induction n with
  | zero => simp [Session.before, h]
  | succ n ih => rw [Session.before, ih, Session.before]

end Sys2Proof.Machine
end

