-- ==== Sys2Proof/Tests/Slice0.lean ====
section
/-! SUPPORT. The model's own tests. Every expected value is from spec/: "T2.3" is that vector of 95_test_vectors.md,
"R66" that rule. The witnesses at the end show, for each statement with hypotheses, a state and operands that meet them,
each clause at a boundary of its range. -/

namespace Sys2Proof.Tests

open Sys2Proof.Machine

/-! ## Helpers -/

/-- The launch state of rule R202: PC at 0x200 (memory with nothing loaded). -/
def launch : State := State.reset.setPc 0x200

/-- The answer is a next state that passes the check. -/
def gives (r : Result) (check : State → Bool) : Bool :=
  match r with
  | .next t => check t
  | .fault _ => false
  | .refused _ => false

/-- One step from `s` with word `w` at PC gives a next state that passes the check. -/
def runs (w : Nat) (s : State) (check : State → Bool) : Bool := gives (step (s.withFetchWord 16 w)) check

/-- One step from `s` with word `w` at PC faults with `f`. -/
def faults (w : Nat) (s : State) (f : Fault) : Bool :=
  match step (s.withFetchWord 16 w) with
  | .next _ => false
  | .fault g => g = f
  | .refused _ => false

/-- A state with V1 and V2 set. -/
def with12 (a b : Byte) : State := (launch.writeV 1 a).writeV 2 b

/-- V1 and VF after a step. -/
def ends1F (a f : Byte) (t : State) : Bool := t.readV 1 = a ∧ t.readV VF = f ∧ t.pc = 0x202

/-- The lit cells of the first rows of the framebuffer. -/
def lit (fb : FrameBuffer) (y : Fin 32) : List Nat :=
  (List.range 64).filter (fun x => fb.pixel (column x) y)

/-! ## The checks of WellFormed refuse what is ill formed (T1, T7.1, R185, R187) -/

theorem test_ill_formed_family_0 : wordWellFormed 0x0123 = false ∧ wordWellFormed 0x01E0 = false := by decide
theorem test_ill_formed_family_5 : wordWellFormed 0x5121 = false := by decide
theorem test_ill_formed_family_8 : wordWellFormed 0x8128 = false ∧ wordWellFormed 0x812F = false := by decide
theorem test_ill_formed_family_9 : wordWellFormed 0x9AB5 = false := by decide
theorem test_ill_formed_family_E : wordWellFormed 0xE000 = false ∧ wordWellFormed 0xE19F = false := by decide
theorem test_ill_formed_family_F : wordWellFormed 0xF0FF = false ∧ wordWellFormed 0xF175 = false := by decide
theorem test_well_formed_word : wordWellFormed 0xFE65 = true ∧ wordWellFormed 0x00EE = true := by decide
theorem test_program_too_long : programFits (List.replicate 3585 0) = false := by
  rw [programFits, List.length_replicate]; rfl
theorem test_program_fits : programFits (List.replicate 3584 0) = true := by
  rw [programFits, List.length_replicate]; rfl
theorem test_key_index_ill_formed : keyIndexOk 16 = false ∧ keyIndexOk 15 = true := by decide
theorem test_pixel_ill_formed : pixelOk 64 0 = false ∧ pixelOk 0 32 = false ∧ pixelOk 63 31 = true := by decide

/-! ## Decoding: a word of each constructor, written bit by bit from the encoding column of rule R68's rows -/

theorem test_decode_control :
    decode 0b0000000011101110 = .ok .op00EE ∧
    decode 0b0001101010111100 = .ok (.op1NNN 0xABC) ∧
    decode 0b0010111111111110 = .ok (.op2NNN 0xFFE) ∧
    decode 0b1011001100000000 = .ok (.opBNNN 0x300) ∧
    decode 0b0011001100101010 = .ok (.op3XNN 3 0x2A) ∧
    decode 0b0100001100101010 = .ok (.op4XNN 3 0x2A) ∧
    decode 0b0101000100100000 = .ok (.op5XY0 1 2) ∧
    decode 0b1001101010110000 = .ok (.op9XY0 0xA 0xB) := by decide

theorem test_decode_alu :
    decode 0b0110101000111100 = .ok (.op6XNN 0xA 0x3C) ∧
    decode 0b0111000111111111 = .ok (.op7XNN 1 0xFF) ∧
    decode 0b1000000100100000 = .ok (.op8XY0 1 2) ∧
    decode 0b1000000100100001 = .ok (.op8XY1 1 2) ∧
    decode 0b1000000100100010 = .ok (.op8XY2 1 2) ∧
    decode 0b1000000100100011 = .ok (.op8XY3 1 2) ∧
    decode 0b1000000111110100 = .ok (.op8XY4 1 0xF) ∧
    decode 0b1000000100100101 = .ok (.op8XY5 1 2) ∧
    decode 0b1000000100100110 = .ok (.op8XY6 1 2) ∧
    decode 0b1000000100100111 = .ok (.op8XY7 1 2) ∧
    decode 0b1000000100101110 = .ok (.op8XYE 1 2) ∧
    decode 0b1100000100001111 = .ok (.opCXNN 1 0x0F) := by decide

theorem test_decode_index_and_memory :
    decode 0b1010001011110000 = .ok (.opANNN 0x2F0) ∧
    decode 0b1111001000011110 = .ok (.opFX1E 2) ∧
    decode 0b1111010000101001 = .ok (.opFX29 4) ∧
    decode 0b1111000000110011 = .ok (.opFX33 0) ∧
    decode 0b1111111101010101 = .ok (.opFX55 0xF) ∧
    decode 0b1111111001100101 = .ok (.opFX65 0xE) := by decide

theorem test_decode_display :
    decode 0b0000000011100000 = .ok .op00E0 ∧
    decode 0b1101011110100101 = .ok (.opDXYN 7 0xA 5) := by decide

theorem test_decode_keypad_and_timers :
    decode 0b1110000010011110 = .ok (.opEX9E 0) ∧
    decode 0b1110000010100001 = .ok (.opEXA1 0) ∧
    decode 0b1111000100001010 = .ok (.opFX0A 1) ∧
    decode 0b1111010100000111 = .ok (.opFX07 5) ∧
    decode 0b1111010100010101 = .ok (.opFX15 5) ∧
    decode 0b1111010100011000 = .ok (.opFX18 5) := by decide

theorem test_decode_refuses :
    decode 0x0000 = .error (.unrecognized 0x0000) ∧ decode 0x00E1 = .error (.unrecognized 0x00E1) ∧
    decode 0x5121 = .error (.unrecognized 0x5121) ∧ decode 0x8128 = .error (.unrecognized 0x8128) ∧
    decode 0xF175 = .error (.unrecognized 0xF175) := by decide

theorem test_decode_bytes : decodeBytes [0x81, 0x24, 0x77] = .ok (.op8XY4 1 2, [0x77]) ∧
    decodeBytes [0x81] = .error .truncated := by decide

theorem test_table_has_34_rows : opcodeTable.length = 34 := by decide
theorem test_rows_do_not_overlap :
    opcodeTable.Pairwise (fun p q => p.pattern &&& q.mask ≠ q.pattern ∧ q.pattern &&& p.mask ≠ p.pattern) := by decide

/-! ## One step (sections T2 to T6) -/

theorem test_6XNN : runs 0x6A3C launch (fun t => t.readV 0xA = 0x3C ∧ t.pc = 0x202) = true := by decide
theorem test_6XNN_VF : runs 0x6F07 launch (fun t => t.readV VF = 0x07) = true := by decide
theorem test_7XNN_wraps : runs 0x7101 ((launch.writeV 1 255).writeV VF 1) (ends1F 0 1) = true := by decide
theorem test_8XY0 : runs 0x8120 (with12 0 0x55) (ends1F 0x55 0) = true := by decide
theorem test_8XY1 : runs 0x8121 ((with12 1 2).writeV VF 9) (ends1F 3 9) = true := by decide
theorem test_8XY2 : runs 0x8122 (with12 0xF3 0x3F) (ends1F 0x33 0) = true := by decide
theorem test_8XY3 : runs 0x8123 (with12 0xFF 0x0F) (ends1F 0xF0 0) = true := by decide
theorem test_8XY4_carry : runs 0x8124 (with12 250 10) (ends1F 4 1) = true := by decide
theorem test_8XY4_reads_old_VF : runs 0x81F4 ((launch.writeV 1 250).writeV VF 10) (ends1F 4 1) = true := by decide
theorem test_8XY5_borrow : runs 0x8125 (with12 10 15) (ends1F 251 0) = true := by decide
theorem test_8XY5_equal : runs 0x8125 (with12 7 7) (ends1F 0 1) = true := by decide
theorem test_8XY6 : runs 0x8126 (with12 5 9) (fun t => ends1F 2 1 t ∧ t.readV 2 = 9) = true := by decide
theorem test_8XY6_VF : runs 0x8F26 (launch.writeV VF 7) (fun t => t.readV VF = 3) = true := by decide
theorem test_8XY7 : runs 0x8127 (with12 15 10) (ends1F 251 0) = true := by decide
theorem test_8XY7_VF : runs 0x8F27 ((launch.writeV VF 5).writeV 2 10) (fun t => t.readV VF = 5) = true := by decide
theorem test_8XYE : runs 0x812E (with12 0x81 9) (fun t => ends1F 0x02 1 t ∧ t.readV 2 = 9) = true := by decide
theorem test_8XYE_VF : runs 0x8F2E (launch.writeV VF 0xC1) (fun t => t.readV VF = 0x82) = true := by decide

/-- T2.41: the mask 0 leaves 0 whatever the draw. -/
theorem test_CXNN_masked : ∃ t, exec (.opCXNN 1 0) launch = .next t ∧ t.readV 1 = 0 := by
  refine ⟨_, rfl, ?_⟩
  simp

theorem test_1NNN : runs 0x1234 launch (fun t => t.pc = 0x234) = true := by decide
theorem test_2NNN :
    runs 0x2210 (launch.setPc 0x204) (fun t => t.stack[0] = 0x204 ∧ t.sp = 1 ∧ t.pc = 0x210) = true := by decide
theorem test_2NNN_overflow : faults 0x2200 (launch.setSp 16) (.stackOverflow 0x200 0x2200) = true := by decide
theorem test_00EE : runs 0x00EE ((launch.setSp 1).setStack (launch.stack.set 0 0x204))
    (fun t => t.sp = 0 ∧ t.pc = 0x206 ∧ t.stack[0] = 0x204) = true := by decide
theorem test_00EE_underflow : faults 0x00EE launch (.stackUnderflow 0x200 0x00EE) = true := by decide
theorem test_BNNN : runs 0xB300 (launch.writeV 0 4) (fun t => t.pc = 0x304) = true := by decide
theorem test_BNNN_beyond_memory : runs 0xBFFF (launch.writeV 0 0xFF) (fun t => t.pc = 0x10FE) = true := by decide
theorem test_3XNN_skips : runs 0x332A (launch.writeV 3 0x2A) (fun t => t.pc = 0x204) = true := by decide
theorem test_3XNN_goes_on : runs 0x332A (launch.writeV 3 0x2B) (fun t => t.pc = 0x202) = true := by decide
theorem test_4XNN_skips : runs 0x432A launch (fun t => t.pc = 0x204) = true := by decide
theorem test_4XNN_goes_on : runs 0x432A (launch.writeV 3 0x2A) (fun t => t.pc = 0x202) = true := by decide
theorem test_5XY0_skips : runs 0x5120 (with12 7 7) (fun t => t.pc = 0x204) = true := by decide
theorem test_5XY0_goes_on : runs 0x5120 (with12 7 8) (fun t => t.pc = 0x202) = true := by decide
theorem test_9XY0_skips : runs 0x9120 (with12 7 8) (fun t => t.pc = 0x204) = true := by decide
theorem test_9XY0_goes_on : runs 0x9120 (with12 7 7) (fun t => t.pc = 0x202) = true := by decide

theorem test_ANNN : runs 0xA2F0 launch (fun t => t.i = 0x02F0) = true := by decide
theorem test_FX1E_flag : runs 0xF21E ((launch.setI 0x0FF0).writeV 2 0x10)
    (fun t => t.i = 0x1000 ∧ t.readV VF = 1) = true := by decide
theorem test_FX1E_wraps : runs 0xF21E ((launch.setI 0xFFFF).writeV 2 1)
    (fun t => t.i = 0 ∧ t.readV VF = 1) = true := by decide
theorem test_FX29 : runs 0xF429 (launch.writeV 4 0x1A) (fun t => t.i = 0x0032) = true := by decide
theorem test_FX33 : runs 0xF033 ((launch.setI 0x300).writeV 0 254)
    (fun t => t.mem.readBytes 0x300 3 = [2, 5, 4] ∧ t.i = 0x300) = true := by decide
theorem test_FX33_beyond_memory : faults 0xF033 ((launch.setI 0xFFE).writeV 0 0x7B)
    (.addressOutOfRange 0x200 (some 0xF033) 0x1000) = true := by decide
theorem test_FX55 : runs 0xF255 ((((launch.setI 0x400).writeV 0 0x11).writeV 1 0x22).writeV 2 0x33)
    (fun t => t.mem.readBytes 0x400 4 = [0x11, 0x22, 0x33, 0] ∧ t.i = 0x403) = true := by decide
theorem test_FX55_does_not_wrap : faults 0xF155 (launch.setI 0xFFFF)
    (.addressOutOfRange 0x200 (some 0xF155) 0xFFFF) = true := by decide
theorem test_FX65 : runs 0xF065 ((launch.setI 0xFFF).setMem [(0xFFF, 0x77)])
    (fun t => t.readV 0 = 0x77 ∧ t.i = 0x1000) = true := by decide
theorem test_FX65_beyond_memory : faults 0xF065 (launch.setI 0x1000)
    (.addressOutOfRange 0x200 (some 0xF065) 0x1000) = true := by decide

theorem test_00E0 : runs 0x00E0 (launch.setFb ((launch.fb.flip 3 4).flip 63 31))
    (fun t => t.fb = FrameBuffer.clear ∧ t.df ∧ t.readV VF = 0) = true := by decide

/-- T5.1, the source's S4: the glyph of 0 at (60, 0), with I at that glyph. -/
theorem test_DXYN_wraps : runs 0xD125 (launch.writeV 1 60)
    (fun t => lit t.fb 0 = [60, 61, 62, 63] ∧ lit t.fb 1 = [60, 63] ∧ lit t.fb 5 = [] ∧ t.readV VF = 0 ∧ t.df)
      = true := by decide
/-- T5.3: (63, 31) and (0, 31), drawn again, go out with a collision. -/
theorem test_DXYN_collides :
    runs 0xD121 ((((with12 63 31).setI 0x300).setMem [(0x300, 0xC0)]).setFb ((launch.fb.flip 63 31).flip 0 31))
      (fun t => t.fb = FrameBuffer.clear ∧ t.readV VF = 1 ∧ t.df) = true := by decide

theorem test_EX9E : runs 0xE09E ((launch.writeKey 5 true).writeV 0 5) (fun t => t.pc = 0x204) = true := by decide
theorem test_EX9E_low_nibble :
    runs 0xE09E ((launch.writeKey 0xA true).writeV 0 0x1A) (fun t => t.pc = 0x204) = true := by decide
theorem test_EXA1 : runs 0xE0A1 (launch.writeV 0 5) (fun t => t.pc = 0x204) = true := by decide
theorem test_EXA1_goes_on : runs 0xE0A1 ((launch.writeKey 5 true).writeV 0 5) (fun t => t.pc = 0x202) = true := by decide
theorem test_FX0A_blocks : stepReport (launch.withFetchWord 16 0xF30A) = .blocked ∧
    runs 0xF30A launch (fun t => t.pc = 0x200 ∧ t.readV 3 = 0) = true := by decide
theorem test_FX0A_lowest :
    runs 0xF50A ((launch.writeKey 9 true).writeKey 4 true) (fun t => t.readV 5 = 4 ∧ t.pc = 0x202) = true := by decide
theorem test_FX07 : runs 0xF507 (launch.setDt 0x1E) (fun t => t.readV 5 = 0x1E ∧ t.dt = 0x1E) = true := by decide
theorem test_FX15 : runs 0xF515 (launch.writeV 5 0x3C) (fun t => t.dt = 0x3C) = true := by decide
theorem test_FX18 : runs 0xF518 (launch.writeV 5 2) (fun t => t.st = 2 ∧ t.beep = false) = true := by decide

theorem test_unrecognized_word : stepReport (launch.withFetchWord 16 0x5121) = .unrecognized 0x5121 ∧
    runs 0x5121 launch (fun t => t = (launch.withFetchWord 16 0x5121).setPc 0x202) = true := by decide
/-- T3.10: the second byte of a fetch from 0xFFF is out of range. -/
theorem test_fetch_beyond_memory :
    stepReport (launch.setPc 0xFFF) = .fault (.addressOutOfRange 0xFFF none 0x1000) := by decide
/-- P6: an odd PC is fetched from like an even one. -/
theorem test_fetch_from_odd_pc : runs 0x6A2A (launch.setPc 0x203) (fun t => t.readV 0xA = 0x2A ∧ t.pc = 0x205) = true := by
  decide
theorem test_fault_codes : (Fault.addressOutOfRange 0 none 0).code = 1 ∧ (Fault.stackOverflow 0 0).code = 2 ∧
    (Fault.stackUnderflow 0 0).code = 3 ∧ (Fault.programTooLarge 0).code = 4 ∧ (StepReport.unrecognized 0).code = some 0 := by
  decide

/-! ## Host operations, reset and load (T5.9, T6.13, T7) -/

theorem test_tick : ((tick ((launch.setDt 1).setSt 2)).dt, (tick ((launch.setDt 1).setSt 2)).st,
    (tick ((launch.setDt 1).setSt 2)).beep) = (0, 1, false) := by decide
theorem test_tick_beeps : ((tick (launch.setSt 1)).st, (tick (launch.setSt 1)).beep) = (0, true) := by decide
theorem test_redraw_owed : (isRedrawOwed (launch.setDf true)).1 = true ∧
    (isRedrawOwed (isRedrawOwed (launch.setDf true)).2).1 = false := by decide
theorem test_load : gives (loadProgram [0x12, 0x00] State.reset)
    (fun t => t.mem.readBytes 0x200 2 = [0x12, 0x00] ∧ t.pc = 0x200) = true := by decide
theorem test_load_nothing : loadProgram [] State.reset = .next launch := rfl
theorem test_load_too_large (s : State) : loadProgram (List.replicate 3585 7) s = .fault (.programTooLarge 3585) := by
  rw [loadProgram, programFits, List.length_replicate]; rfl
theorem test_reset_font : State.reset.mem.readBytes 0 5 = [0xF0, 0x90, 0x90, 0x90, 0xF0] ∧
    State.reset.mem.readBytes 0x4B 5 = [0xF0, 0x80, 0xF0, 0x80, 0x80] := by decide
theorem test_reset_memory_wf : State.reset.mem.wf = true := by decide
theorem test_write_keeps_wf : ((State.reset.mem.write 0x300 5).write 0x10 6).wf = true ∧
    (State.reset.mem.write 0x300 5).write 0x300 0 = [] := by decide
/-- P4, its operations 1 to 4 with the key pressed after one blocked step: a session from reset on. -/
theorem test_session_waits_for_key :
    (match (Session.mk .fresh State.reset).run [.loadProgram [0xF0, 0x0A], .step, .setKey 3 true, .step] with
      | .ok (q, replies) => decide (q.state.readV 0 = 3 ∧ q.state.pc = 0x202 ∧
          replies = [.loaded .ok, .report .blocked, .nothing, .report .ok])
      | .error _ => false) = true := by decide
/-- P5, then R181: a step that faults changes nothing, and the host goes on, here with a tick and a second faulting step. -/
theorem test_session_goes_on_after_fault :
    (match (Session.mk .ready ((launch.setDt 1).withFetchWord 16 0x00EE)).run [.step, .tick, .step] with
      | .ok (q, replies) => decide (q.state.pc = 0x200 ∧ q.state.dt = 0 ∧
          replies = [.report (.fault (.stackUnderflow 0x200 0x00EE)), .nothing,
            .report (.fault (.stackUnderflow 0x200 0x00EE))])
      | .error _ => false) = true := by decide
/-- R174, R201: a load that is too large is answered so and changes nothing, and a key press after it is applied. -/
theorem test_session_goes_on_after_large_program (bytes : List Byte) (h : programFits bytes = false) :
    (Session.mk .fresh State.reset).run [.loadProgram bytes, .setKey 3 true] =
      .ok (⟨.fresh, State.reset.writeKey 3 true⟩, [.loaded .programTooLarge, .nothing]) := by
  simp [Session.run, Session.perform, Session.apply, Session.reply, loadProgram, loadReport, h, raise, Session.lift,
    setKey, keyIndexOk]

/-! ## Witnesses: the hypotheses of the statements can be met -/

theorem answers {r : Result} (h : gives r (fun _ => true) = true) : ∃ t, r = .next t := by
  cases r with
  | next t => exact ⟨t, rfl⟩
  | fault f => simp [gives] at h
  | refused r => simp [gives] at h

/-- For the encoding lines of every instruction statement: the pattern word of each row has the row's fixed bits. -/
theorem witness_encodedAs : ∀ row ∈ opcodeTable, row.pattern &&& row.mask = row.pattern := by decide

theorem witness_EncodeOfDecode : decode 0x8F2E = .ok (.op8XYE 0xF 2) := by decide

theorem witness_DecodeFollowsOpcodeMap :
    (⟨"FX65", 0xF0FF, 0xF065⟩ : OpRow) ∈ opcodeTable ∧ (0xFF65 : Word) &&& 0xF0FF = 0xF065 := by decide

theorem witness_FetchReadsBigEndianWordOrFaults :
    (launch.setPc 0xFFE).pc.toNat ≤ 0xFFE ∧ (launch.setPc 0xFFF).pc.toNat = 0xFFF ∧
    0x1000 ≤ (launch.setPc 0x1000).pc.toNat ∧ 0x1000 ≤ (launch.setPc 0xFFFF).pc.toNat := by decide

/-- A jump in the last two bytes of memory. -/
theorem witness_StepRunsDecodedInstruction :
    let s := (launch.setPc 0xFFE).setMem [(0xFFE, 0x12)]
    s.pc.toNat ≤ 0xFFE ∧
      decodeBytes [s.mem.read s.pc.toNat, s.mem.read (s.pc.toNat + 1)] = .ok (.op1NNN 0x200, []) := by decide

theorem witness_UnrecognizedWordIsReportedNoOp :
    (launch.setMem [(0x200, 0x01), (0x201, 0xE0)]).fetchWord = .ok 0x01E0 ∧ wordWellFormed 0x01E0 = false := by decide

/-- Each of the four results of a step is attained. -/
theorem witness_StepHasOneOfFourResults :
    stepReport (launch.withFetchWord 16 0x00EE) = .fault (.stackUnderflow 0x200 0x00EE) ∧
    stepReport launch = .unrecognized 0x0000 ∧ stepReport (launch.withFetchWord 16 0xF00A) = .blocked ∧
    stepReport (launch.withFetchWord 16 0x00E0) = .ok := by decide

/-- For AddWithCarry, SubtractWithNoBorrowFlag, ShiftByOne and DrawingTwiceRestores: a register next to VF is not VF. -/
theorem witness_not_VF : (0xE : Reg) ≠ VF ∧ (0x0 : Reg) ≠ VF := by decide

theorem witness_CallPushesOwnAddress :
    launch.sp.val < 16 ∧ (launch.setSp 15).sp.val < 16 ∧ (launch.setSp 16).sp.val = 16 := by decide

theorem witness_ReturnGoesOnAfterTheCall :
    0 < (launch.setSp 1).sp.val ∧ 0 < (launch.setSp 16).sp.val ∧ launch.sp.val = 0 := by decide

/-- T3.6: a call of 0xFFE from 0x200, with 15 entries in use. -/
theorem witness_CallThenReturn :
    let s := (launch.setSp 15).setMem [(0x200, 0x2F), (0x201, 0xFE), (0xFFF, 0xEE)]
    s.fetchWord = .ok (encode (.op2NNN 0xFFE)) ∧ s.sp.val < 16 ∧ (0xFFE : Imm12).toNat ≤ 0xFFE ∧
      s.mem.read (0xFFE : Imm12).toNat = 0x00 ∧ s.mem.read ((0xFFE : Imm12).toNat + 1) = 0xEE := by decide

theorem witness_StoreDecimalDigits :
    (launch.setI 0xFFD).i.toNat + 2 < 4096 ∧ 4096 ≤ (launch.setI 0xFFE).i.toNat + 2 ∧
    4096 ≤ (launch.setI 0xFFFF).i.toNat + 2 := by decide

/-- For FX55 and FX65: the last I that fits and the first that does not, for X = 0 and X = F. -/
theorem witness_register_blocks :
    (launch.setI 0xFFF).i.toNat + (0x0 : Reg).toNat < 4096 ∧ (launch.setI 0xFF0).i.toNat + (0xF : Reg).toNat < 4096 ∧
    4096 ≤ (launch.setI 0x1000).i.toNat + (0x0 : Reg).toNat ∧ 4096 ≤ (launch.setI 0xFF1).i.toNat + (0xF : Reg).toNat ∧
    (0xF : Reg).toNat ≤ (0xF : Reg).toNat := by decide

theorem witness_StoreThenLoadRestoresRegisters :
    (∃ t, exec (.opFX55 0xF) (launch.setI 0xFF0) = .next t) ∧ (0xF : Reg).toNat ≤ (0xF : Reg).toNat :=
  ⟨answers (by decide), by decide⟩

theorem witness_StoredBytesAreFetched :
    (∃ t, exec (.opFX55 0xF) (launch.setI 0xFF0) = .next t) ∧ (0xE : Reg).toNat < (0xF : Reg).toNat ∧
    (0xFFE : Word).toNat = (launch.setI 0xFF0).i.toNat + (0xE : Reg).toNat :=
  ⟨answers (by decide), by decide⟩

/-- The ranges of DXYN: N = 0 with I anywhere, the last I that fits 15 rows, the first that does not. -/
theorem witness_DrawSprite_ranges :
    (0x0 : Nibble).toNat = 0 ∧ (launch.setI 0xFF1).i.toNat + (0xF : Nibble).toNat - 1 < 4096 ∧
    1 ≤ (0xF : Nibble).toNat ∧ 4096 ≤ (launch.setI 0xFF2).i.toNat + (0xF : Nibble).toNat - 1 ∧
    1 ≤ (0x1 : Nibble).toNat ∧ 4096 ≤ (launch.setI 0x1000).i.toNat + (0x1 : Nibble).toNat - 1 := by decide

/-- Cells under a sprite and not: row 14 of 15 from (63, 31), its columns 0 and 7 wrapped to (63, 13) and (6, 13), the first
of them lit before; (7, 13) is under no column. -/
theorem witness_DrawSprite_cells :
    let s := (((with12 63 31).setI 0xFF1).setMem [(0xFFF, 0x81)]).setFb (launch.fb.flip 63 13)
    (14 < (0xF : Nibble).toNat ∧ 63 = ((s.readV 1).toNat + 0) % 64 ∧ 13 = ((s.readV 2).toNat + 14) % 32 ∧
      (s.mem.read (s.i.toNat + 14)).getLsbD (7 - 0) = true ∧ s.fb.pixel 63 13 = true) ∧
    (6 = ((s.readV 1).toNat + 7) % 64 ∧ (s.mem.read (s.i.toNat + 14)).getLsbD (7 - 7) = true) ∧
    (∀ c < 8, 7 ≠ ((s.readV 1).toNat + c) % 64) := by decide

theorem witness_DrawingTwiceRestores :
    let s := (launch.setI 0xFFF).setMem [(0xFFF, 0x01)]
    (0xE : Reg) ≠ VF ∧ (0x0 : Reg) ≠ VF ∧ (∃ t, exec (.opDXYN 0xE 0x0 1) s = .next t) ∧
      (∃ r, r < (1 : Nibble).toNat ∧ s.mem.read (s.i.toNat + r) ≠ 0) ∧ ∀ px py, s.fb.pixel px py = false :=
  ⟨by decide, by decide, answers (by decide), ⟨0, by decide, by decide⟩,
    fun px py => by simp [launch, State.reset, FrameBuffer.pixel]⟩

/-- V0 = 0x1A selects key A (decision D8), V0 = 0xFF key F. -/
theorem witness_KeySkips : (0xA : KeyIx).toNat = ((launch.writeV 0 0x1A).readV 0).toNat % 16 ∧
    (0xF : KeyIx).toNat = ((launch.writeV 0 0xFF).readV 0).toNat % 16 := by decide

theorem witness_WaitForKey :
    ((launch.writeKey 15 true).keyDown 15 = true ∧
      ∀ j : KeyIx, j.toNat < (15 : KeyIx).toNat → (launch.writeKey 15 true).keyDown j = false) ∧
    ((launch.writeKey 0 true).keyDown 0 = true ∧
      ∀ j : KeyIx, j.toNat < (0 : KeyIx).toNat → (launch.writeKey 0 true).keyDown j = false) ∧
    ∀ k, launch.keyDown k = false := by decide

theorem witness_InstructionsWriteOnlyTheirRow : ∃ t, exec (.opFX33 0) (launch.setI 0xFFD) = .next t := answers (by decide)

theorem witness_FlagRegisterIsWrittenByItsList :
    ((∃ t, exec (.op8XY4 1 2) launch = .next t) ∧ ¬ destination (.op8XY4 1 2) VF ∧ writesFlag (.op8XY4 1 2) = true) ∧
    (∃ t, exec (.op7XNN 0xE 2) launch = .next t) ∧ ¬ destination (.op7XNN 0xE 2) VF ∧
      writesFlag (.op7XNN 0xE 2) = false :=
  ⟨⟨⟨_, rfl⟩, by simp [destination, VF], rfl⟩, ⟨_, rfl⟩, by simp [destination, VF], rfl⟩

theorem witness_ProgramCounterAdvance :
    ((∃ t, exec (.opFX65 0) (launch.setI 0xFFF) = .next t) ∧ redirects (.opFX65 0) = false) ∧
    (∃ t, exec (.op2NNN 0xFFF) (launch.setSp 15) = .next t) ∧ (∃ t, exec (.opBNNN 0xFFF) launch = .next t) ∧
    (∃ t, exec .op00EE (launch.setSp 16) = .next t) ∧ (∃ t, exec (.op3XNN 0 0) launch = .next t) ∧
    (∃ t, exec (.op9XY0 0 1) launch = .next t) ∧ (∃ t, exec (.opEX9E 0) launch = .next t) ∧
    (∃ t, exec (.opFX0A 0) launch = .next t) ∧ ∃ t, exec (.opFX0A 0) (launch.writeKey 15 true) = .next t :=
  ⟨⟨answers (by decide), rfl⟩, ⟨_, rfl⟩, ⟨_, rfl⟩, ⟨_, rfl⟩, ⟨_, rfl⟩, ⟨_, rfl⟩, ⟨_, rfl⟩, ⟨_, rfl⟩,
    ⟨_, rfl⟩⟩

theorem witness_HostOnlyStateIsNotRead :
    (∃ t, exec (.opFX18 0) launch = .next t) ∧ ∃ f, exec .op00EE launch = .fault f := ⟨⟨_, rfl⟩, ⟨_, rfl⟩⟩

theorem witness_StackFaultsExactly :
    (∃ pc op, exec (.op2NNN 0) (launch.setSp 16) = .fault (.stackOverflow pc op)) ∧
    ∃ pc op, exec .op00EE launch = .fault (.stackUnderflow pc op) := ⟨⟨_, _, rfl⟩, ⟨_, _, rfl⟩⟩

theorem witness_AddressFaultsExactly :
    1 ≤ accessedBytes (.opDXYN 0 0 15) ∧ 4096 ≤ (launch.setI 0xFF2).i.toNat + accessedBytes (.opDXYN 0 0 15) - 1 ∧
    1 ≤ accessedBytes (.opFX65 0) ∧ 4096 ≤ (launch.setI 0x1000).i.toNat + accessedBytes (.opFX65 0) - 1 := by decide

theorem witness_programs :
    (List.replicate 3584 (0x12 : Byte)).length ≤ 3584 ∧ 3584 < (List.replicate 3585 (0x12 : Byte)).length := by
  rw [List.length_replicate, List.length_replicate]; decide

theorem witness_OneBeepEdge : (launch.setSt 1).st.toNat = 0 + 1 ∧ (launch.setSt 255).st.toNat = 254 + 1 := by decide

theorem witness_SetKeyWritesOneKey : 0 ≤ 15 ∧ (15 : KeyIx).toNat = 15 ∧ 15 < 16 := by decide

theorem witness_QueriesChangeNothing : 63 < 64 ∧ 31 < 32 ∧ (63 : Fin 64).val = 63 ∧ (31 : Fin 32).val = 31 := by decide

/-- A jump to itself at 0xFFE, the last place for one. -/
theorem witness_EndedRunStaysPut :
    ((launch.setPc 0xFFE).setMem [(0xFFE, 0x1F), (0xFFF, 0xFE)]).endedAt 0xFFE := ⟨by decide, by decide⟩

/-- A state with the invariant at the top of its ranges, and a step from it. -/
theorem witness_StepKeepsInvariant :
    let s := ((launch.setPc 0xFFE).setStack (Vector.replicate 16 0xFFE)).setMem [(0xFFE, 0x1F), (0xFFF, 0xFE)]
    s.Inv ∧ gives (step s) (fun _ => true) = true :=
  ⟨⟨by decide, by decide, by decide⟩, by decide⟩

/-- A step of the program 00E0, whatever the rest of the state. -/
theorem step_loaded (s : State) :
    ∃ t, step ((s.setMem (s.mem.writeBytes Config.progBase [0x00, 0xE0])).setPc (BitVec.ofNat 16 Config.progBase)) =
      .next t ∧ t.pc = 0x202 := by
  have hf : ((s.setMem (s.mem.writeBytes Config.progBase [0x00, 0xE0])).setPc
      (BitVec.ofNat 16 Config.progBase)).fetchWord = .ok 0x00E0 := by
    rw [State.fetchWord_ok _ (by simp [Config.progBase, Config.memSize])]
    simp [Memory.read_writeBytes, Config.memSize, Config.progBase]
    decide
  exact ⟨_, step_decoded hf (i := .op00E0) (by decide), rfl⟩

theorem load_then_step {s : State} (h : Session.Reachable ⟨.fresh, s⟩) :
    ∃ p, Session.Reachable p ∧ p.phase = .ready ∧ p.state.pc = 0x202 := by
  obtain ⟨t, ht, hpc⟩ := step_loaded s
  exact ⟨⟨.ready, t⟩, .op .step (.op (.loadProgram [0x00, 0xE0]) h rfl) (congrArg (Session.lift .ready) ht), rfl, hpc⟩

/-- A reachable session after a load and a step. -/
theorem witness_ReachableSessionsKeepInvariant :
    ∃ p, Session.Reachable p ∧ p.phase = .ready ∧ p.state.pc = 0x202 := load_then_step (.start [] [])

/-- Each operation with its duty met. -/
theorem witness_AdmittedOperationsComplete :
    (Session.mk .ready launch).phase = .ready ∧ (Session.mk .fresh launch).phase = .fresh ∧
    ([] : List Byte).length ≤ 3584 ∧ 15 ≤ 15 ∧ 63 ≤ 63 ∧ 31 ≤ 31 := by decide

/-- For OperationsKeepInvariant: a state at the top of its ranges, and an operation that completes from it. -/
theorem witness_OperationsKeepInvariant :
    let s := (launch.setPc 0x10FE).setStack (Vector.replicate 16 0xFFE)
    s.Inv ∧ (Session.mk .fresh s).apply (.loadProgram []) = .next ⟨.ready, s.setPc 0x200⟩ :=
  ⟨⟨by decide, by decide, by decide⟩, rfl⟩

/-- A session in which every step faults. -/
def faulting : Session := ⟨.ready, launch.withFetchWord 16 0x00EE⟩

theorem faulting_step : faulting.apply .step = .fault (.stackUnderflow 0x200 0x00EE) := rfl

/-- For FaultsLeaveTheSessionAndAreReplied: a step that faults, a load that does, one that completes, and a run. -/
theorem witness_FaultsLeaveTheSessionAndAreReplied (bytes : List Byte) (h : programFits bytes = false) :
    (∃ f, faulting.apply .step = .fault f) ∧
    (∃ f, (Session.mk .fresh launch).apply (.loadProgram bytes) = .fault f) ∧
    (∃ q, (Session.mk .fresh launch).apply (.loadProgram []) = .next q) ∧
    ∃ q replies, faulting.run [.tick, .step] = .ok (q, replies) :=
  ⟨⟨_, faulting_step⟩, ⟨.programTooLarge bytes.length, by simp [Session.apply, loadProgram, h, raise, Session.lift]⟩,
    ⟨_, rfl⟩, ⟨_, _, rfl⟩⟩

/-- For SchedulesRunWithoutEnd: stepping for ever where every step faults (rule R181). -/
theorem witness_SchedulesRunWithoutEnd : faulting.state.Inv ∧ faulting.Admits (fun _ => .step) := by
  refine ⟨⟨by decide, by decide, by decide⟩, fun n => ⟨faulting, ?_⟩⟩
  induction n with
  | zero => rfl
  | succ n ih =>
    exact Session.before_succ_eq_ok.2 ⟨_, _, ih, Session.perform_eq_ok.2 ⟨.inr ⟨rfl, _, faulting_step⟩, rfl⟩⟩

end Sys2Proof.Tests
end

section
/-! PROOFS. Control transfer (40_control_flow.md): the fixed bits of a word decide what it decodes to, a change of PC alone
leaves every other piece of state, and the jumps and the compare-and-skips are such changes. -/

namespace Sys2Proof.Machine

/-! ## Encoding lines (rules R63, R65) -/

/-- An encoding line of format NNN, XNN or XYN is decided by the family. -/
theorem EncodedAs.of_family {pattern : Word} {f : Nibble} {i : Word → Instr} (hp : pattern = encXYN f 0 0 0)
    (h : ∀ w, fieldFamily w = f → decode w = .ok (i w)) : EncodedAs 0xF000 pattern i :=
  fun w hw => h w (family_of_mask (hw.trans hp))

/-- An encoding line of format XY is decided by the family and the low digit. -/
theorem EncodedAs.of_digit {pattern : Word} {f n : Nibble} {i : Word → Instr} (hp : pattern = encXYN f 0 0 n)
    (h : ∀ w, fieldFamily w = f → fieldN w = n → decode w = .ok (i w)) : EncodedAs 0xF00F pattern i := by
  intro w hw
  obtain ⟨hf, hn⟩ := digit_of_mask (hw.trans hp)
  exact h w hf hn

theorem encodedAs_op1NNN : EncodedAs 0xF000 0x1000 (fun w => .op1NNN (fieldNNN w)) :=
  .of_family (f := 0x1) rfl fun w hf => by simp [decode, hf]

theorem encodedAs_opBNNN : EncodedAs 0xF000 0xB000 (fun w => .opBNNN (fieldNNN w)) :=
  .of_family (f := 0xB) rfl fun w hf => by simp [decode, hf]

theorem encodedAs_op3XNN : EncodedAs 0xF000 0x3000 (fun w => .op3XNN (fieldX w) (fieldNN w)) :=
  .of_family (f := 0x3) rfl fun w hf => by simp [decode, hf]

theorem encodedAs_op4XNN : EncodedAs 0xF000 0x4000 (fun w => .op4XNN (fieldX w) (fieldNN w)) :=
  .of_family (f := 0x4) rfl fun w hf => by simp [decode, hf]

theorem encodedAs_op5XY0 : EncodedAs 0xF00F 0x5000 (fun w => .op5XY0 (fieldX w) (fieldY w)) :=
  .of_digit (f := 0x5) (n := 0x0) rfl fun w hf hn => by simp [decode, decode5, hf, hn]

theorem encodedAs_op9XY0 : EncodedAs 0xF00F 0x9000 (fun w => .op9XY0 (fieldX w) (fieldY w)) :=
  .of_digit (f := 0x9) (n := 0x0) rfl fun w hf hn => by simp [decode, decode9, hf, hn]

/-! ## What the instructions do -/

section
variable (s : State) (x y : Reg) (nn : Byte) (nnn : Imm12)

theorem exec_op1NNN : exec (.op1NNN nnn) s = .next (s.setPc (addressOf nnn)) := rfl

theorem exec_opBNNN : exec (.opBNNN nnn) s = .next (s.setPc (addressOf nnn + (s.readV 0).setWidth 16)) := rfl

theorem exec_op3XNN : exec (.op3XNN x nn) s = .next (s.skipIf (s.readV x = nn)) := rfl

theorem exec_op4XNN : exec (.op4XNN x nn) s = .next (s.skipIf (s.readV x ≠ nn)) := rfl

theorem exec_op5XY0 : exec (.op5XY0 x y) s = .next (s.skipIf (s.readV x = s.readV y)) := rfl

theorem exec_op9XY0 : exec (.op9XY0 x y) s = .next (s.skipIf (s.readV x ≠ s.readV y)) := rfl

/-- Writing PC changes no other piece of state. -/
theorem Frame.setPc (pc : Word) : Frame s (s.setPc pc) (fun p => p = .pc) := by
  intro p hp
  cases p with
  | pc => exact absurd rfl hp
  | _ => rfl

/-- A skip, taken or not, changes no other piece of state than PC. -/
theorem Frame.skipIf (taken : Bool) : Frame s (s.skipIf taken) (fun p => p = .pc) := Frame.setPc s _

/-- The target of BNNN is at most 0xFFF + 0xFF, so the 16-bit sum does not wrap (rule R83). -/
theorem toNat_addressOf_add_setWidth (b : Byte) : (addressOf nnn + b.setWidth 16).toNat = nnn.toNat + b.toNat := by
  have hn := nnn.isLt
  have hb := b.isLt
  simp [BitVec.toNat_add]
  omega

/-- Where a skip taken on a condition goes. -/
theorem State.pc_skipIf_decide (c : Prop) [Decidable c] :
    (s.skipIf (decide c)).pc = if c then s.pc + 4 else s.pc + 2 := by
  by_cases h : c <;> simp [h]

/-- Where a skip taken unless a condition holds goes. -/
theorem State.pc_skipIf_decide_not (c : Prop) [Decidable c] :
    (s.skipIf (decide (¬ c))).pc = if c then s.pc + 2 else s.pc + 4 := by
  by_cases h : c <;> simp [h]

end

/-! ## The statements -/

/-- Settles O18: both jumps are one write of PC, and the target of BNNN does not wrap. -/
theorem jumpsWriteOnlyPc : Obligations.JumpsWriteOnlyPc :=
  ⟨encodedAs_op1NNN, encodedAs_opBNNN, fun s nnn =>
    ⟨⟨_, exec_op1NNN s nnn, toNat_addressOf nnn, Frame.setPc s _⟩,
     ⟨_, exec_opBNNN s nnn, toNat_addressOf_add_setWidth nnn _, Frame.setPc s _⟩⟩⟩

/-- Settles O21: each of the four is one skip, on equality or unless there is equality. -/
theorem compareAndSkip : Obligations.CompareAndSkip :=
  ⟨encodedAs_op3XNN, encodedAs_op4XNN, encodedAs_op5XY0, encodedAs_op9XY0, fun s x y nn =>
    ⟨⟨_, exec_op3XNN s x nn, s.pc_skipIf_decide _, Frame.skipIf s _⟩,
     ⟨_, exec_op4XNN s x nn, s.pc_skipIf_decide_not _, Frame.skipIf s _⟩,
     ⟨_, exec_op5XY0 s x y, s.pc_skipIf_decide _, Frame.skipIf s _⟩,
     ⟨_, exec_op9XY0 s x y, s.pc_skipIf_decide_not _, Frame.skipIf s _⟩⟩⟩

end Sys2Proof.Machine
end

section
/-! PROOFS. Registers and ALU (41_alu.md): an ALU instruction writes V[X], and before it VF where it has a flag, and moves
PC on; what is left per instruction is the arithmetic of its result and of its flag. -/

namespace Sys2Proof.Machine

/-! ## Encoding lines (rules R65, R68) -/

/-- An encoding line of family 8 is decided by the low digit. -/
theorem EncodedAs.of_decode8 {pattern : Word} {n : Nibble} {i : Word → Instr} (hp : pattern = encXYN 0x8 0 0 n)
    (h : ∀ w, fieldN w = n → decode8 w = .ok (i w)) : EncodedAs 0xF00F pattern i :=
  .of_digit hp fun w hf hn => by simpa [decode, hf] using h w hn

theorem encodedAs_op6XNN : EncodedAs 0xF000 0x6000 (fun w => .op6XNN (fieldX w) (fieldNN w)) :=
  .of_family (f := 0x6) rfl fun w hf => by simp [decode, hf]

theorem encodedAs_op7XNN : EncodedAs 0xF000 0x7000 (fun w => .op7XNN (fieldX w) (fieldNN w)) :=
  .of_family (f := 0x7) rfl fun w hf => by simp [decode, hf]

theorem encodedAs_op8XY0 : EncodedAs 0xF00F 0x8000 (fun w => .op8XY0 (fieldX w) (fieldY w)) :=
  .of_decode8 (n := 0x0) rfl fun w hn => by simp [decode8, hn]

theorem encodedAs_op8XY1 : EncodedAs 0xF00F 0x8001 (fun w => .op8XY1 (fieldX w) (fieldY w)) :=
  .of_decode8 (n := 0x1) rfl fun w hn => by simp [decode8, hn]

theorem encodedAs_op8XY2 : EncodedAs 0xF00F 0x8002 (fun w => .op8XY2 (fieldX w) (fieldY w)) :=
  .of_decode8 (n := 0x2) rfl fun w hn => by simp [decode8, hn]

theorem encodedAs_op8XY3 : EncodedAs 0xF00F 0x8003 (fun w => .op8XY3 (fieldX w) (fieldY w)) :=
  .of_decode8 (n := 0x3) rfl fun w hn => by simp [decode8, hn]

theorem encodedAs_op8XY5 : EncodedAs 0xF00F 0x8005 (fun w => .op8XY5 (fieldX w) (fieldY w)) :=
  .of_decode8 (n := 0x5) rfl fun w hn => by simp [decode8, hn]

theorem encodedAs_op8XY6 : EncodedAs 0xF00F 0x8006 (fun w => .op8XY6 (fieldX w) (fieldY w)) :=
  .of_decode8 (n := 0x6) rfl fun w hn => by simp [decode8, hn]

theorem encodedAs_op8XY7 : EncodedAs 0xF00F 0x8007 (fun w => .op8XY7 (fieldX w) (fieldY w)) :=
  .of_decode8 (n := 0x7) rfl fun w hn => by simp [decode8, hn]

theorem encodedAs_op8XYE : EncodedAs 0xF00F 0x800E (fun w => .op8XYE (fieldX w) (fieldY w)) :=
  .of_decode8 (n := 0xE) rfl fun w hn => by simp [decode8, hn]

/-! ## Frames of the register writes -/

/-- What two changes in a row may write is what the one or the other may write. -/
theorem Frame.trans {s t u : State} {P Q : Part → Prop} (hst : Frame s t P) (htu : Frame t u Q) :
    Frame s u (fun p => P p ∨ Q p) := by
  intro p hp
  rw [not_or] at hp
  have h1 := hst p hp.1
  have h2 := htu p hp.2
  cases p <;> exact Eq.trans h2 h1

/-- A frame may name more pieces of state than were written. -/
theorem Frame.mono {s t : State} {P Q : Part → Prop} (h : Frame s t P) (hPQ : ∀ p, P p → Q p) : Frame s t Q :=
  fun p hp => h p (mt (hPQ p) hp)

section
variable (s : State) (x y : Reg) (nn a b : Byte) (flag : Bool)

/-- Writing one register changes no other register and nothing else. -/
theorem Frame.writeV : Frame s (s.writeV x b) (fun p => p = .v x) := by
  intro p hp
  cases p with
  | v q => exact s.readV_writeV_ne b fun e => hp (congrArg Part.v e)
  | _ => rfl

/-- An instruction that writes V[X] only writes V[X] and PC. -/
theorem Frame.writeV_advance : Frame s (s.writeV x b).advance (fun p => p = .v x ∨ p = .pc) :=
  (Frame.writeV s x b).trans (Frame.setPc _ _)

/-- An instruction that writes a flag and then V[X] writes V[X], VF and PC. -/
theorem Frame.writeFlag_writeV_advance :
    Frame s ((s.writeFlag flag).writeV x b).advance (fun p => p = .v x ∨ p = .v VF ∨ p = .pc) :=
  ((Frame.writeV s VF (flagByte flag)).trans (Frame.writeV_advance _ x b)).mono fun _ => or_left_comm.1

/-! ## What the instructions do -/

theorem exec_op6XNN : exec (.op6XNN x nn) s = .next (s.writeV x nn).advance := rfl

theorem exec_op7XNN : exec (.op7XNN x nn) s = .next (s.writeV x (s.readV x + nn)).advance := rfl

theorem exec_op8XY0 : exec (.op8XY0 x y) s = .next (s.writeV x (s.readV y)).advance := rfl

theorem exec_op8XY1 : exec (.op8XY1 x y) s = .next (s.writeV x (s.readV x ||| s.readV y)).advance := rfl

theorem exec_op8XY2 : exec (.op8XY2 x y) s = .next (s.writeV x (s.readV x &&& s.readV y)).advance := rfl

theorem exec_op8XY3 : exec (.op8XY3 x y) s = .next (s.writeV x (s.readV x ^^^ s.readV y)).advance := rfl

theorem exec_op8XY5 : exec (.op8XY5 x y) s =
    writeFlagResult x (noBorrow (s.readV x) (s.readV y)) (s.readV x - s.readV y) s := rfl

theorem exec_op8XY6 : exec (.op8XY6 x y) s = writeFlagResult x (outRight (s.readV x)) (s.readV x >>> 1) s := rfl

theorem exec_op8XY7 : exec (.op8XY7 x y) s =
    writeFlagResult x (noBorrow (s.readV y) (s.readV x)) (s.readV y - s.readV x) s := rfl

theorem exec_op8XYE : exec (.op8XYE x y) s = writeFlagResult x (outLeft (s.readV x)) (s.readV x <<< 1) s := rfl

/-- Everything an instruction with a flag does: the result is in V[X], with X = F too, since it is written after the flag
(rule R24). -/
theorem writeFlagResult_spec : ∃ t, writeFlagResult x flag b s = .next t ∧ t.readV x = b ∧
    (x ≠ VF → t.readV VF = flagByte flag) ∧ t.pc = s.pc + 2 ∧
    Frame s t (fun p => p = .v x ∨ p = .v VF ∨ p = .pc) := by
  refine ⟨_, rfl, by simp, fun hx => ?_, rfl, Frame.writeFlag_writeV_advance s x b flag⟩
  simp [State.readV_writeV_ne _ b hx.symm]

/-! ## Results and flags as numbers -/

/-- A difference of bytes is the difference of the numbers modulo 256 (rules R107, R109). -/
theorem toNat_sub_eq_emod : ((a - b).toNat : Int) = ((a.toNat : Int) - b.toNat) % 256 := by
  have ha := a.isLt
  have hb := b.isLt
  rw [BitVec.toNat_sub]
  omega

theorem toNat_flagByte_noBorrow : (flagByte (noBorrow a b)).toNat = if a.toNat ≥ b.toNat then 1 else 0 := by
  simp [noBorrow]

/-- The bit moved out to the right is the remainder by 2 (rule R108). -/
theorem toNat_flagByte_outRight : (flagByte (outRight a)).toNat = a.toNat % 2 := by
  rw [toNat_flagByte, outRight, BitVec.getLsbD, Nat.testBit_zero]
  simp only [decide_eq_true_eq]
  split <;> omega

/-- The bit moved out to the left is bit 7, the quotient by 128 (rule R110). -/
theorem toNat_flagByte_outLeft : (flagByte (outLeft a)).toNat = a.toNat / 128 := by
  have ha := a.isLt
  rw [toNat_flagByte, outLeft, BitVec.getLsbD, Nat.testBit_eq_decide_div_mod_eq]
  simp only [decide_eq_true_eq]
  split <;> omega

/-- The two subtractions differ in the order of their operands only. -/
theorem writeFlagResult_sub_spec : ∃ t, writeFlagResult x (noBorrow a b) (a - b) s = .next t ∧
    ((t.readV x).toNat : Int) = ((a.toNat : Int) - b.toNat) % 256 ∧
    (x ≠ VF → (t.readV VF).toNat = if a.toNat ≥ b.toNat then 1 else 0) ∧ t.pc = s.pc + 2 ∧
    Frame s t (fun p => p = .v x ∨ p = .v VF ∨ p = .pc) := by
  obtain ⟨t, ht, hx, hf, hpc, hframe⟩ := writeFlagResult_spec s x (a - b) (noBorrow a b)
  exact ⟨t, ht, hx ▸ toNat_sub_eq_emod a b, fun h => hf h ▸ toNat_flagByte_noBorrow a b, hpc, hframe⟩

end

/-! ## The statements -/

/-- Settles O11: both are one write of V[X]. -/
theorem loadImmediateAndCopy : Obligations.LoadImmediateAndCopy :=
  ⟨encodedAs_op6XNN, encodedAs_op8XY0, fun s x y nn =>
    ⟨⟨_, exec_op6XNN s x nn, by simp, rfl, Frame.writeV_advance s x _⟩,
     ⟨_, exec_op8XY0 s x y, by simp, rfl, Frame.writeV_advance s x _⟩⟩⟩

/-- Settles O12: one write of V[X], so VF changes only as V[X]. -/
theorem addImmediateLeavesFlag : Obligations.AddImmediateLeavesFlag :=
  ⟨encodedAs_op7XNN, fun s x nn =>
    ⟨_, exec_op7XNN s x nn, by simp [BitVec.toNat_add], rfl, Frame.writeV_advance s x _⟩⟩

/-- Settles O13: each is one write of V[X], and the operation acts on every bit alone. -/
theorem bitwiseOperations : Obligations.BitwiseOperations :=
  ⟨encodedAs_op8XY1, encodedAs_op8XY2, encodedAs_op8XY3, fun s x y =>
    ⟨⟨_, exec_op8XY1 s x y, fun k _ => by simp, rfl, Frame.writeV_advance s x _⟩,
     ⟨_, exec_op8XY2 s x y, fun k _ => by simp, rfl, Frame.writeV_advance s x _⟩,
     ⟨_, exec_op8XY3 s x y, fun k _ => by simp, rfl, Frame.writeV_advance s x _⟩⟩⟩

/-- Settles O15: one subtraction with its flag, the operands in either order. -/
theorem subtractWithNoBorrowFlag : Obligations.SubtractWithNoBorrowFlag :=
  ⟨encodedAs_op8XY5, encodedAs_op8XY7, fun s x y =>
    ⟨exec_op8XY5 s x y ▸ writeFlagResult_sub_spec s x (s.readV x) (s.readV y),
     exec_op8XY7 s x y ▸ writeFlagResult_sub_spec s x (s.readV y) (s.readV x)⟩⟩

/-- Settles O16: a shift by one is a division by 2 or a doubling modulo 256, and its flag the bit moved out. -/
theorem shiftByOne : Obligations.ShiftByOne := by
  refine ⟨encodedAs_op8XY6, encodedAs_op8XYE, fun s x y => ⟨?right, ?left⟩⟩
  case right =>
    obtain ⟨t, ht, hx, hf, hpc, hframe⟩ := writeFlagResult_spec s x (s.readV x >>> 1) (outRight (s.readV x))
    refine ⟨t, (exec_op8XY6 s x y).trans ht, ?_, fun h => hf h ▸ toNat_flagByte_outRight _, hpc, hframe⟩
    rw [hx, BitVec.toNat_ushiftRight, Nat.shiftRight_eq_div_pow, Nat.pow_one]
  case left =>
    obtain ⟨t, ht, hx, hf, hpc, hframe⟩ := writeFlagResult_spec s x (s.readV x <<< 1) (outLeft (s.readV x))
    refine ⟨t, (exec_op8XYE s x y).trans ht, ?_, fun h => hf h ▸ toNat_flagByte_outLeft _, hpc, hframe⟩
    rw [hx, BitVec.toNat_shiftLeft, Nat.shiftLeft_eq, Nat.pow_one]

end Sys2Proof.Machine
end

section
/-! PROOFS. Address register and memory (42_index_memory.md): a write of I leaves every other piece of state, and ANNN is
one such write and a move of PC. -/

namespace Sys2Proof.Machine

theorem encodedAs_opANNN : EncodedAs 0xF000 0xA000 (fun w => .opANNN (fieldNNN w)) :=
  .of_family (f := 0xA) rfl fun w hf => by simp [decode, hf]

section
variable (s : State) (nnn : Imm12) (i : Word)

/-- Writing I changes no other piece of state. -/
theorem Frame.setI : Frame s (s.setI i) (fun p => p = .i) := by
  intro p hp
  cases p with
  | i => exact absurd rfl hp
  | _ => rfl

/-- An instruction that writes I only writes I and PC. -/
theorem Frame.setI_advance : Frame s (s.setI i).advance (fun p => p = .i ∨ p = .pc) :=
  (Frame.setI s i).trans (Frame.setPc _ _)

theorem exec_opANNN : exec (.opANNN nnn) s = .next (s.setI (addressOf nnn)).advance := rfl

end

/-- Settles O23: one write of I, and the address of NNN is the number NNN. -/
theorem loadAddressRegister : Obligations.LoadAddressRegister :=
  ⟨encodedAs_opANNN, fun s nnn =>
    ⟨_, exec_opANNN s nnn, toNat_addressOf nnn, rfl, Frame.setI_advance s _⟩⟩

end Sys2Proof.Machine
end

section
/-! PROOFS. Display (43_display.md): a write of the framebuffer leaves every piece of state but the cells, a write of DF
every piece but DF, and 00E0 is these two and a move of PC. -/

namespace Sys2Proof.Machine

/-- An instruction without operands has one encoding: its mask leaves no bit of the word free (rule R65). -/
theorem EncodedAs.of_word {pattern : Word} {i : Instr} (h : decode pattern = .ok i) :
    EncodedAs 0xFFFF pattern (fun _ => i) := by
  intro w hw
  have hword : w = pattern := BitVec.and_allOnes.symm.trans hw
  exact hword ▸ h

theorem encodedAs_op00E0 : EncodedAs 0xFFFF 0x00E0 (fun _ => .op00E0) := .of_word rfl

section
variable (s : State) (fb : FrameBuffer) (df : Bool)

/-- Writing the framebuffer changes cells only. -/
theorem Frame.setFb : Frame s (s.setFb fb) (fun p => ∃ x y, p = .cell x y) := by
  intro p hp
  cases p with
  | cell x y => exact absurd ⟨x, y, rfl⟩ hp
  | _ => rfl

/-- Writing DF changes no other piece of state. -/
theorem Frame.setDf : Frame s (s.setDf df) (fun p => p = .df) := by
  intro p hp
  cases p with
  | df => exact absurd rfl hp
  | _ => rfl

/-- An instruction that writes the framebuffer and DF only writes cells, DF and PC. -/
theorem Frame.setFb_setDf_advance :
    Frame s ((s.setFb fb).setDf df).advance (fun p => p = .df ∨ p = .pc ∨ ∃ x y, p = .cell x y) :=
  ((Frame.setFb s fb).trans ((Frame.setDf _ df).trans (Frame.setPc _ _))).mono fun _ h => or_assoc.1 h.symm

theorem exec_op00E0 : exec .op00E0 s = .next ((s.setFb FrameBuffer.clear).setDf true).advance := rfl

end

/-- Settles O31: one write of the framebuffer, with every cell 0, and one of DF, whatever the cells were. -/
theorem clearDisplay : Obligations.ClearDisplay :=
  ⟨encodedAs_op00E0, fun s =>
    ⟨_, exec_op00E0 s, FrameBuffer.pixel_clear, rfl, rfl, Frame.setFb_setDf_advance s _ _⟩⟩

end Sys2Proof.Machine
end

section
/-! PROOFS. Keypad and timers (44_keypad_timers.md): a write of DT leaves every piece of state but DT, a write of ST every
piece but ST, BEEP among them, and the three timer moves are one write and a move of PC. -/

namespace Sys2Proof.Machine

/-! ## Encoding lines (rules R65, R68) -/

/-- An encoding line of family F is decided by the low byte. -/
theorem EncodedAs.of_decodeF {pattern : Word} {b : Byte} {i : Word → Instr} (hp : pattern = encXNN 0xF 0 b)
    (h : ∀ w, fieldNN w = b → decodeF w = .ok (i w)) : EncodedAs 0xF0FF pattern i := by
  intro w hw
  obtain ⟨hf, hb⟩ := byte_of_mask (hw.trans hp)
  simpa [decode, hf] using h w hb

theorem encodedAs_opFX07 : EncodedAs 0xF0FF 0xF007 (fun w => .opFX07 (fieldX w)) :=
  .of_decodeF (b := 0x07) rfl fun w hb => by simp [decodeF, hb]

theorem encodedAs_opFX15 : EncodedAs 0xF0FF 0xF015 (fun w => .opFX15 (fieldX w)) :=
  .of_decodeF (b := 0x15) rfl fun w hb => by simp [decodeF, hb]

theorem encodedAs_opFX18 : EncodedAs 0xF0FF 0xF018 (fun w => .opFX18 (fieldX w)) :=
  .of_decodeF (b := 0x18) rfl fun w hb => by simp [decodeF, hb]

section
variable (s : State) (x : Reg) (b : Byte)

/-! ## Frames of the timer writes -/

/-- Writing DT changes no other piece of state. -/
theorem Frame.setDt : Frame s (s.setDt b) (fun p => p = .dt) := by
  intro p hp
  cases p with
  | dt => exact absurd rfl hp
  | _ => rfl

/-- Writing ST changes no other piece of state; it gives no beep edge (rule R155). -/
theorem Frame.setSt : Frame s (s.setSt b) (fun p => p = .st) := by
  intro p hp
  cases p with
  | st => exact absurd rfl hp
  | _ => rfl

/-! ## What the instructions do -/

theorem exec_opFX07 : exec (.opFX07 x) s = .next (s.writeV x s.dt).advance := rfl

theorem exec_opFX15 : exec (.opFX15 x) s = .next (s.setDt (s.readV x)).advance := rfl

theorem exec_opFX18 : exec (.opFX18 x) s = .next (s.setSt (s.readV x)).advance := rfl

end

/-! ## The statement -/

/-- Settles O36: FX07 is one write of V[X], FX15 one of DT and FX18 one of ST, each before PC moves on. -/
theorem timerMoves : Obligations.TimerMoves :=
  ⟨encodedAs_opFX07, encodedAs_opFX15, encodedAs_opFX18, fun s x =>
    ⟨⟨_, exec_opFX07 s x, by simp, rfl, Frame.writeV_advance s x _⟩,
     ⟨_, exec_opFX15 s x, rfl, rfl, (Frame.setDt s _).trans (Frame.setPc _ _)⟩,
     ⟨_, exec_opFX18 s x, rfl, rfl, (Frame.setSt s _).trans (Frame.setPc _ _)⟩⟩⟩

end Sys2Proof.Machine
end

section
/-! PROOFS. Exceptions (60_exceptions.md): everything a fault of an instruction, of a step and of `loadProgram` can be, said
once each; which operation raises which error condition is read off these. -/

namespace Sys2Proof.Machine

section
variable {s : State} {f : Fault}

/-! ## What a fault can be -/

/-- A checked instruction faults on the range check, or as it says. -/
theorem checkRange_eq_fault {i : Instr} {len : Nat} {k : Result} (h : checkRange i s len k = .fault f) :
    (∃ addr, outOfRange s.i.toNat len = some addr ∧ f = .addressOutOfRange s.pc (some (encode i)) addr) ∨ k = .fault f := by
  unfold checkRange at h
  split at h
  · rename_i addr haddr
    exact .inl ⟨addr, haddr, by simpa [raise] using h.symm⟩
  · exact .inr h

/-- 2NNN faults on a full stack only (rule R172). -/
theorem exec_op2NNN_eq_fault {nnn : Imm12} :
    exec (.op2NNN nnn) s = .fault f ↔ s.sp.val = 16 ∧ f = .stackOverflow s.pc (encode (.op2NNN nnn)) := by
  simp only [exec, exec2NNN, Config.stackDepth]
  split
  · simp only [reduceCtorEq, false_iff]
    omega
  · have hfull : s.sp.val = 16 := by omega
    simp [raise, hfull, eq_comm]

/-- 00EE faults on an empty stack only (rule R173). -/
theorem exec_op00EE_eq_fault :
    exec .op00EE s = .fault f ↔ s.sp.val = 0 ∧ f = .stackUnderflow s.pc (encode .op00EE) := by
  simp only [exec, exec00EE]
  split
  · simp only [reduceCtorEq, false_iff]
    omega
  · have hempty : s.sp.val = 0 := by omega
    simp [raise, hempty, eq_comm]

/-- FX0A never faults: with no key down it is blocked (rule R152). -/
theorem exec_opFX0A_ne_fault (x : Reg) : exec (.opFX0A x) s ≠ .fault f := by
  simp only [exec, execFX0A]
  split <;> simp [writeResult]

/-- Everything a fault of an instruction can be (rules R171 to R173). -/
theorem exec_eq_fault {i : Instr} (h : exec i s = .fault f) :
    (∃ nnn, i = .op2NNN nnn ∧ s.sp.val = 16 ∧ f = .stackOverflow s.pc (encode i)) ∨
    (i = .op00EE ∧ s.sp.val = 0 ∧ f = .stackUnderflow s.pc (encode i)) ∨
    (∃ addr, outOfRange s.i.toNat (accessedBytes i) = some addr ∧
      f = .addressOutOfRange s.pc (some (encode i)) addr) := by
  cases i with
  | op2NNN nnn => exact .inl ⟨nnn, rfl, exec_op2NNN_eq_fault.1 h⟩
  | op00EE => exact .inr (.inl ⟨rfl, exec_op00EE_eq_fault.1 h⟩)
  | opDXYN | opFX33 | opFX55 | opFX65 => exact .inr (.inr ((checkRange_eq_fault h).resolve_right nofun))
  | opFX0A x => exact absurd h (exec_opFX0A_ne_fault x)
  | _ => exact nomatch h

/-- A step faults in the fetch or in the instruction it decodes: the no-op of rule R66 never does. -/
theorem step_eq_fault (h : step s = .fault f) :
    (∃ addr, s.fetchWord = .error addr ∧ f = fetchFault s addr) ∨
    (∃ w i, s.fetchWord = .ok w ∧ decode w = .ok i ∧ exec i s = .fault f) := by
  unfold step at h
  split at h
  · rename_i addr haddr
    exact .inl ⟨addr, haddr, by simpa [raise] using h.symm⟩
  · rename_i w hw
    split at h
    · rename_i i hi
      exact .inr ⟨w, i, hw, hi, h⟩
    · exact nomatch h

/-- `loadProgram` faults on a program above PROG_MAX only (rules R174, R201). -/
theorem loadProgram_eq_fault {bytes : List Byte} :
    loadProgram bytes s = .fault f ↔ 3584 < bytes.length ∧ f = .programTooLarge bytes.length := by
  simp only [loadProgram, programFits, Config.progMax, decide_eq_true_eq]
  split
  · simp only [reduceCtorEq, false_iff]
    omega
  · have hlong : 3584 < bytes.length := by omega
    simp [raise, hlong, eq_comm]

end

/-! ## The statements -/

/-- Settles O41: of the three kinds of fault an instruction can raise, each stack fault is one instruction's. -/
theorem stackFaultsExactly : Obligations.StackFaultsExactly := by
  refine fun i s => ⟨⟨?overflow, ?call⟩, ⟨?underflow, ?ret⟩⟩
  case overflow =>
    rintro ⟨pc, op, h⟩
    obtain ⟨nnn, hi, hsp, -⟩ | ⟨-, -, ⟨⟩⟩ | ⟨_, -, ⟨⟩⟩ := exec_eq_fault h
    exact ⟨⟨nnn, hi⟩, hsp⟩
  case call =>
    rintro ⟨⟨nnn, rfl⟩, hsp⟩
    exact ⟨_, _, exec_op2NNN_eq_fault.2 ⟨hsp, rfl⟩⟩
  case underflow =>
    rintro ⟨pc, op, h⟩
    obtain ⟨_, -, -, ⟨⟩⟩ | ⟨hi, hsp, -⟩ | ⟨_, -, ⟨⟩⟩ := exec_eq_fault h
    exact ⟨hi, hsp⟩
  case ret =>
    rintro ⟨rfl, hsp⟩
    exact ⟨_, _, exec_op00EE_eq_fault.2 ⟨hsp, rfl⟩⟩

/-- Settles O43: `loadProgram` has one fault, and neither a fetch nor an instruction has that one. -/
theorem programTooLargeExactly : Obligations.ProgramTooLargeExactly := by
  refine ⟨fun bytes s => ⟨?fault, ?long⟩, ?step⟩
  case fault =>
    rintro ⟨len, h⟩
    exact (loadProgram_eq_fault.1 h).1
  case long => exact fun h => ⟨_, loadProgram_eq_fault.2 ⟨h, rfl⟩⟩
  case step =>
    intro s len h
    obtain ⟨_, -, ⟨⟩⟩ | ⟨_, _, -, -, hexec⟩ := step_eq_fault h
    obtain ⟨_, -, -, ⟨⟩⟩ | ⟨-, -, ⟨⟩⟩ | ⟨_, -, ⟨⟩⟩ := exec_eq_fault hexec

/-- Settles O47: the query is a read of DF beside one write of DF, with false. -/
theorem redrawFlagIsConsumed : Obligations.RedrawFlagIsConsumed :=
  fun s => ⟨rfl, rfl, Frame.setDf s false, rfl⟩

end Sys2Proof.Machine
end

section
/-! PROOFS. The decoder (30_encoding.md): the encoding lines of the rows not met above, the round trip between words and
instructions, and the table of unrecognized words. -/

namespace Sys2Proof.Machine

/-! ## Encoding lines (rules R65, R68) -/

/-- An encoding line of family E is decided by the low byte. -/
theorem EncodedAs.of_decodeE {pattern : Word} {b : Byte} {i : Word → Instr} (hp : pattern = encXNN 0xE 0 b)
    (h : ∀ w, fieldNN w = b → decodeE w = .ok (i w)) : EncodedAs 0xF0FF pattern i := by
  intro w hw
  obtain ⟨hf, hb⟩ := byte_of_mask (hw.trans hp)
  simpa [decode, hf] using h w hb

theorem encodedAs_op00EE : EncodedAs 0xFFFF 0x00EE (fun _ => .op00EE) := .of_word rfl

theorem encodedAs_op2NNN : EncodedAs 0xF000 0x2000 (fun w => .op2NNN (fieldNNN w)) :=
  .of_family (f := 0x2) rfl fun w hf => by simp [decode, hf]

theorem encodedAs_op8XY4 : EncodedAs 0xF00F 0x8004 (fun w => .op8XY4 (fieldX w) (fieldY w)) :=
  .of_decode8 (n := 0x4) rfl fun w hn => by simp [decode8, hn]

theorem encodedAs_opCXNN : EncodedAs 0xF000 0xC000 (fun w => .opCXNN (fieldX w) (fieldNN w)) :=
  .of_family (f := 0xC) rfl fun w hf => by simp [decode, hf]

theorem encodedAs_opDXYN : EncodedAs 0xF000 0xD000 (fun w => .opDXYN (fieldX w) (fieldY w) (fieldN w)) :=
  .of_family (f := 0xD) rfl fun w hf => by simp [decode, hf]

theorem encodedAs_opEX9E : EncodedAs 0xF0FF 0xE09E (fun w => .opEX9E (fieldX w)) :=
  .of_decodeE (b := 0x9E) rfl fun w hb => by simp [decodeE, hb]

theorem encodedAs_opEXA1 : EncodedAs 0xF0FF 0xE0A1 (fun w => .opEXA1 (fieldX w)) :=
  .of_decodeE (b := 0xA1) rfl fun w hb => by simp [decodeE, hb]

theorem encodedAs_opFX0A : EncodedAs 0xF0FF 0xF00A (fun w => .opFX0A (fieldX w)) :=
  .of_decodeF (b := 0x0A) rfl fun w hb => by simp [decodeF, hb]

theorem encodedAs_opFX1E : EncodedAs 0xF0FF 0xF01E (fun w => .opFX1E (fieldX w)) :=
  .of_decodeF (b := 0x1E) rfl fun w hb => by simp [decodeF, hb]

theorem encodedAs_opFX29 : EncodedAs 0xF0FF 0xF029 (fun w => .opFX29 (fieldX w)) :=
  .of_decodeF (b := 0x29) rfl fun w hb => by simp [decodeF, hb]

theorem encodedAs_opFX33 : EncodedAs 0xF0FF 0xF033 (fun w => .opFX33 (fieldX w)) :=
  .of_decodeF (b := 0x33) rfl fun w hb => by simp [decodeF, hb]

theorem encodedAs_opFX55 : EncodedAs 0xF0FF 0xF055 (fun w => .opFX55 (fieldX w)) :=
  .of_decodeF (b := 0x55) rfl fun w hb => by simp [decodeF, hb]

theorem encodedAs_opFX65 : EncodedAs 0xF0FF 0xF065 (fun w => .opFX65 (fieldX w)) :=
  .of_decodeF (b := 0x65) rfl fun w hb => by simp [decodeF, hb]

/-! ## The rows of the opcode map -/

/-- Every instruction's word carries the fixed bits of its row, and the check of words accepts it. -/
theorem ownRow (i : Instr) : Laws.OwnRow.Statement i := by
  cases i with
  | op00E0 => exact Laws.OwnRow.op00E0
  | op00EE => exact Laws.OwnRow.op00EE
  | op1NNN nnn => exact Laws.OwnRow.op1NNN nnn
  | op2NNN nnn => exact Laws.OwnRow.op2NNN nnn
  | op3XNN x nn => exact Laws.OwnRow.op3XNN x nn
  | op4XNN x nn => exact Laws.OwnRow.op4XNN x nn
  | op5XY0 x y => exact Laws.OwnRow.op5XY0 x y
  | op9XY0 x y => exact Laws.OwnRow.op9XY0 x y
  | op6XNN x nn => exact Laws.OwnRow.op6XNN x nn
  | op7XNN x nn => exact Laws.OwnRow.op7XNN x nn
  | op8XY0 x y => exact Laws.OwnRow.op8XY0 x y
  | op8XY1 x y => exact Laws.OwnRow.op8XY1 x y
  | op8XY2 x y => exact Laws.OwnRow.op8XY2 x y
  | op8XY3 x y => exact Laws.OwnRow.op8XY3 x y
  | op8XY4 x y => exact Laws.OwnRow.op8XY4 x y
  | op8XY5 x y => exact Laws.OwnRow.op8XY5 x y
  | op8XY6 x y => exact Laws.OwnRow.op8XY6 x y
  | op8XY7 x y => exact Laws.OwnRow.op8XY7 x y
  | op8XYE x y => exact Laws.OwnRow.op8XYE x y
  | opANNN nnn => exact Laws.OwnRow.opANNN nnn
  | opBNNN nnn => exact Laws.OwnRow.opBNNN nnn
  | opCXNN x nn => exact Laws.OwnRow.opCXNN x nn
  | opDXYN x y n => exact Laws.OwnRow.opDXYN x y n
  | opEX9E x => exact Laws.OwnRow.opEX9E x
  | opEXA1 x => exact Laws.OwnRow.opEXA1 x
  | opFX07 x => exact Laws.OwnRow.opFX07 x
  | opFX0A x => exact Laws.OwnRow.opFX0A x
  | opFX15 x => exact Laws.OwnRow.opFX15 x
  | opFX18 x => exact Laws.OwnRow.opFX18 x
  | opFX1E x => exact Laws.OwnRow.opFX1E x
  | opFX29 x => exact Laws.OwnRow.opFX29 x
  | opFX33 x => exact Laws.OwnRow.opFX33 x
  | opFX55 x => exact Laws.OwnRow.opFX55 x
  | opFX65 x => exact Laws.OwnRow.opFX65 x

/-- A word with the fixed bits of an instruction's row decodes to an instruction of that row: its encoding line says to
which. -/
theorem exists_decode_of_mask (j : Instr) (w : Word) (h : w &&& j.row.mask = j.row.pattern) :
    ∃ i, decode w = .ok i ∧ i.row = j.row := by
  cases j with
  | op00E0 => exact ⟨_, encodedAs_op00E0 w h, rfl⟩
  | op00EE => exact ⟨_, encodedAs_op00EE w h, rfl⟩
  | op1NNN => exact ⟨_, encodedAs_op1NNN w h, rfl⟩
  | op2NNN => exact ⟨_, encodedAs_op2NNN w h, rfl⟩
  | op3XNN => exact ⟨_, encodedAs_op3XNN w h, rfl⟩
  | op4XNN => exact ⟨_, encodedAs_op4XNN w h, rfl⟩
  | op5XY0 => exact ⟨_, encodedAs_op5XY0 w h, rfl⟩
  | op9XY0 => exact ⟨_, encodedAs_op9XY0 w h, rfl⟩
  | op6XNN => exact ⟨_, encodedAs_op6XNN w h, rfl⟩
  | op7XNN => exact ⟨_, encodedAs_op7XNN w h, rfl⟩
  | op8XY0 => exact ⟨_, encodedAs_op8XY0 w h, rfl⟩
  | op8XY1 => exact ⟨_, encodedAs_op8XY1 w h, rfl⟩
  | op8XY2 => exact ⟨_, encodedAs_op8XY2 w h, rfl⟩
  | op8XY3 => exact ⟨_, encodedAs_op8XY3 w h, rfl⟩
  | op8XY4 => exact ⟨_, encodedAs_op8XY4 w h, rfl⟩
  | op8XY5 => exact ⟨_, encodedAs_op8XY5 w h, rfl⟩
  | op8XY6 => exact ⟨_, encodedAs_op8XY6 w h, rfl⟩
  | op8XY7 => exact ⟨_, encodedAs_op8XY7 w h, rfl⟩
  | op8XYE => exact ⟨_, encodedAs_op8XYE w h, rfl⟩
  | opANNN => exact ⟨_, encodedAs_opANNN w h, rfl⟩
  | opBNNN => exact ⟨_, encodedAs_opBNNN w h, rfl⟩
  | opCXNN => exact ⟨_, encodedAs_opCXNN w h, rfl⟩
  | opDXYN => exact ⟨_, encodedAs_opDXYN w h, rfl⟩
  | opEX9E => exact ⟨_, encodedAs_opEX9E w h, rfl⟩
  | opEXA1 => exact ⟨_, encodedAs_opEXA1 w h, rfl⟩
  | opFX07 => exact ⟨_, encodedAs_opFX07 w h, rfl⟩
  | opFX0A => exact ⟨_, encodedAs_opFX0A w h, rfl⟩
  | opFX15 => exact ⟨_, encodedAs_opFX15 w h, rfl⟩
  | opFX18 => exact ⟨_, encodedAs_opFX18 w h, rfl⟩
  | opFX1E => exact ⟨_, encodedAs_opFX1E w h, rfl⟩
  | opFX29 => exact ⟨_, encodedAs_opFX29 w h, rfl⟩
  | opFX33 => exact ⟨_, encodedAs_opFX33 w h, rfl⟩
  | opFX55 => exact ⟨_, encodedAs_opFX55 w h, rfl⟩
  | opFX65 => exact ⟨_, encodedAs_opFX65 w h, rfl⟩

/-! ## From an instruction to its word and back -/

/-- The high digit of the word selects the family, and the literal digits of the row the instruction in it. -/
theorem decode_encode (i : Instr) : decode (encode i) = .ok i := by
  cases i with
  | op00E0 | op00EE => rfl
  | op5XY0 => simp [encode, decode, decode5]
  | op9XY0 => simp [encode, decode, decode9]
  | op8XY0 | op8XY1 | op8XY2 | op8XY3 | op8XY4 | op8XY5 | op8XY6 | op8XY7 | op8XYE => simp [encode, decode, decode8]
  | opEX9E | opEXA1 => simp [encode, decode, decodeE]
  | opFX07 | opFX0A | opFX15 | opFX18 | opFX1E | opFX29 | opFX33 | opFX55 | opFX65 => simp [encode, decode, decodeF]
  | _ => simp [encode, decode]

/-! ## From a word to its instruction and back -/

section
variable {w : Word} {i : Instr}

theorem encNNN_of_family {f : Nibble} (hf : fieldFamily w = f) : encNNN f (fieldNNN w) = w := hf ▸ encNNN_fields w

theorem encXNN_of_family {f : Nibble} (hf : fieldFamily w = f) : encXNN f (fieldX w) (fieldNN w) = w :=
  hf ▸ encXNN_fields w

theorem encXNN_of_byte {f : Nibble} {b : Byte} (hf : fieldFamily w = f) (hb : fieldNN w = b) :
    encXNN f (fieldX w) b = w := hb ▸ encXNN_of_family hf

theorem encXYN_of_digit {f n : Nibble} (hf : fieldFamily w = f) (hn : fieldN w = n) :
    encXYN f (fieldX w) (fieldY w) n = w := hn ▸ hf ▸ encXYN_fields w

theorem encode_of_decode0 (hf : fieldFamily w = 0x0) (h : decode0 w = .ok i) : encode i = w := by
  unfold decode0 at h
  split at h
  case h_3 => exact nomatch h
  all_goals
    rename_i hn
    cases h
    exact (hn ▸ encNNN_of_family hf :)

theorem encode_of_decode5 (hf : fieldFamily w = 0x5) (h : decode5 w = .ok i) : encode i = w := by
  unfold decode5 at h
  split at h
  · cases h
    exact encXYN_of_digit hf ‹_›
  · exact nomatch h

theorem encode_of_decode9 (hf : fieldFamily w = 0x9) (h : decode9 w = .ok i) : encode i = w := by
  unfold decode9 at h
  split at h
  · cases h
    exact encXYN_of_digit hf ‹_›
  · exact nomatch h

theorem encode_of_decode8 (hf : fieldFamily w = 0x8) (h : decode8 w = .ok i) : encode i = w := by
  unfold decode8 at h
  split at h
  case h_10 => exact nomatch h
  all_goals
    cases h
    exact encXYN_of_digit hf ‹_›

theorem encode_of_decodeE (hf : fieldFamily w = 0xE) (h : decodeE w = .ok i) : encode i = w := by
  unfold decodeE at h
  split at h
  case h_3 => exact nomatch h
  all_goals
    cases h
    exact encXNN_of_byte hf ‹_›

theorem encode_of_decodeF (hf : fieldFamily w = 0xF) (h : decodeF w = .ok i) : encode i = w := by
  unfold decodeF at h
  split at h
  case h_10 => exact nomatch h
  all_goals
    cases h
    exact encXNN_of_byte hf ‹_›

/-- The decoder by families: those whose low digits select further, and those with one instruction, whose fields fill
the word. -/
theorem decode_cases (w : Word) :
    (fieldFamily w = 0x0 ∧ decode w = decode0 w) ∨ (fieldFamily w = 0x5 ∧ decode w = decode5 w) ∨
    (fieldFamily w = 0x8 ∧ decode w = decode8 w) ∨ (fieldFamily w = 0x9 ∧ decode w = decode9 w) ∨
    (fieldFamily w = 0xE ∧ decode w = decodeE w) ∨ (fieldFamily w = 0xF ∧ decode w = decodeF w) ∨
    ∃ i, decode w = .ok i ∧ encode i = w := by
  unfold decode
  split
  case h_1 hf => exact .inl ⟨hf, rfl⟩
  case h_6 hf => exact .inr (.inl ⟨hf, rfl⟩)
  case h_9 hf => exact .inr (.inr (.inl ⟨hf, rfl⟩))
  case h_10 hf => exact .inr (.inr (.inr (.inl ⟨hf, rfl⟩)))
  case h_15 hf => exact .inr (.inr (.inr (.inr (.inl ⟨hf, rfl⟩))))
  case h_16 =>
    have hf : fieldFamily w = 0xF := by simp only [imp_false] at *; bv_omega
    exact .inr (.inr (.inr (.inr (.inr (.inl ⟨hf, rfl⟩)))))
  all_goals refine .inr (.inr (.inr (.inr (.inr (.inr ⟨_, rfl, ?_⟩)))))
  case h_2 hf | h_3 hf | h_11 hf | h_12 hf => exact encNNN_of_family hf
  case h_4 hf | h_5 hf | h_7 hf | h_8 hf | h_13 hf => exact encXNN_of_family hf
  case h_14 hf => exact encXYN_of_digit hf rfl

/-- Each arm of the decoder keeps the fields it does not fix, and the encoder puts them back. -/
theorem encode_of_decode (h : decode w = .ok i) : encode i = w := by
  obtain ⟨hf, hd⟩ | ⟨hf, hd⟩ | ⟨hf, hd⟩ | ⟨hf, hd⟩ | ⟨hf, hd⟩ | ⟨hf, hd⟩ | ⟨j, hd, hj⟩ := decode_cases w
  · exact encode_of_decode0 hf (hd ▸ h)
  · exact encode_of_decode5 hf (hd ▸ h)
  · exact encode_of_decode8 hf (hd ▸ h)
  · exact encode_of_decode9 hf (hd ▸ h)
  · exact encode_of_decodeE hf (hd ▸ h)
  · exact encode_of_decodeF hf (hd ▸ h)
  · cases hd.symm.trans h
    exact hj

/-! ## The words the decoder refuses (rule R66) -/

theorem toNat_of_family {f : Nibble} (hf : fieldFamily w = f) : w.toNat / 4096 = f.toNat :=
  hf ▸ (toNat_fieldFamily w).symm

theorem wordWellFormed_family0 (hf : fieldFamily w = 0x0) :
    wordWellFormed w = true ↔ fieldNNN w = 0x0E0 ∨ fieldNNN w = 0x0EE := by
  have hw : w.toNat / 4096 = 0 := toNat_of_family hf
  have hmod : w.toNat % 4096 = w.toNat := by omega
  simp [wordWellFormed, BitVec.toNat_eq, hw, hmod]

theorem wordWellFormed_family5 (hf : fieldFamily w = 0x5) : wordWellFormed w = true ↔ fieldN w = 0x0 := by
  simp [wordWellFormed, BitVec.toNat_eq, toNat_of_family hf]

theorem wordWellFormed_family9 (hf : fieldFamily w = 0x9) : wordWellFormed w = true ↔ fieldN w = 0x0 := by
  simp [wordWellFormed, BitVec.toNat_eq, toNat_of_family hf]

theorem wordWellFormed_family8 (hf : fieldFamily w = 0x8) :
    wordWellFormed w = true ↔ fieldN w ∈ [0x0#4, 0x1, 0x2, 0x3, 0x4, 0x5, 0x6, 0x7, 0xE] := by
  simp [wordWellFormed, BitVec.toNat_eq, toNat_of_family hf]
  omega

theorem wordWellFormed_familyE (hf : fieldFamily w = 0xE) :
    wordWellFormed w = true ↔ fieldNN w = 0x9E ∨ fieldNN w = 0xA1 := by
  simp [wordWellFormed, BitVec.toNat_eq, toNat_of_family hf]

theorem wordWellFormed_familyF (hf : fieldFamily w = 0xF) :
    wordWellFormed w = true ↔ fieldNN w ∈ [0x07#8, 0x0A, 0x15, 0x18, 0x1E, 0x29, 0x33, 0x55, 0x65] := by
  simp [wordWellFormed, BitVec.toNat_eq, toNat_of_family hf]

/-- A word that passes the check of rule R66 decodes. -/
theorem exists_decode_of_wordWellFormed (hw : wordWellFormed w = true) : ∃ i, decode w = .ok i := by
  obtain ⟨hf, hd⟩ | ⟨hf, hd⟩ | ⟨hf, hd⟩ | ⟨hf, hd⟩ | ⟨hf, hd⟩ | ⟨hf, hd⟩ | ⟨j, hd, -⟩ := decode_cases w
  · obtain h | h := (wordWellFormed_family0 hf).1 hw <;> simp [hd, decode0, h]
  · simp [hd, decode5, (wordWellFormed_family5 hf).1 hw]
  · have h := (wordWellFormed_family8 hf).1 hw
    simp only [List.mem_cons, List.not_mem_nil, or_false] at h
    obtain h | h | h | h | h | h | h | h | h := h <;> simp [hd, decode8, h]
  · simp [hd, decode9, (wordWellFormed_family9 hf).1 hw]
  · obtain h | h := (wordWellFormed_familyE hf).1 hw <;> simp [hd, decodeE, h]
  · have h := (wordWellFormed_familyF hf).1 hw
    simp only [List.mem_cons, List.not_mem_nil, or_false] at h
    obtain h | h | h | h | h | h | h | h | h := h <;> simp [hd, decodeF, h]
  · exact ⟨j, hd⟩

/-- The decoder refuses exactly the words that fail the check of rule R66, each under its own name. -/
theorem decode_eq_error_iff : decode w = .error (.unrecognized w) ↔ wordWellFormed w = false := by
  constructor
  · intro h
    by_contra hw
    obtain ⟨i, hi⟩ := exists_decode_of_wordWellFormed (Bool.eq_true_of_not_eq_false hw)
    cases h.symm.trans hi
  · intro hw
    cases hd : decode w with
    | error e => rw [decode_error w e hd]
    | ok i =>
      have hwi := (ownRow i).2
      rw [encode_of_decode hd, hw] at hwi
      exact nomatch hwi

end

/-! ## The statements -/

/-- Settles O1: the encoder's fields are read back as they were written. -/
theorem decodeOfEncode : Obligations.DecodeOfEncode := decode_encode

/-- Settles O2: family by family, the word is put together again from the fields the decoder took from it. -/
theorem encodeOfDecode : Obligations.EncodeOfDecode := fun _ _ h => encode_of_decode h

/-- Settles O3: the encoding lines of the 34 rows in the one direction, the instruction's own word in the other. -/
theorem decodeFollowsOpcodeMap : Obligations.DecodeFollowsOpcodeMap := by
  intro w row hrow
  obtain ⟨j, -, rfl⟩ := List.mem_map.1 hrow
  refine ⟨exists_decode_of_mask j w, ?_⟩
  rintro ⟨i, hi, hij⟩
  have hown := (ownRow i).1
  rwa [encode_of_decode hi, hij] at hown

/-- Settles O4: what passes the check decodes, and the word of an instruction passes it. -/
theorem refusedWordsAreTheUnrecognizedOnes : Obligations.RefusedWordsAreTheUnrecognizedOnes := fun _ =>
  decode_eq_error_iff

/-- Settles O5: the decoder evaluated on eight words. -/
theorem wordsWrittenOutDecode : Obligations.WordsWrittenOutDecode := by
  unfold Obligations.WordsWrittenOutDecode
  decide

end Sys2Proof.Machine
end

section
/-! PROOFS. The carry and the random draw (41_alu.md), call and return (40_control_flow.md section 1), the key skips
and the key wait (44_keypad_timers.md): what each does and leaves alone. -/

namespace Sys2Proof.Machine

/-- A piece of state that was written and is back as it was need not be named. -/
theorem Frame.drop_part {s t : State} {P : Part → Prop} {q : Part} (h : Frame s t (fun p => P p ∨ p = q))
    (hq : SamePart s t q) : Frame s t P := by
  intro p hp
  by_cases hpq : p = q
  · exact hpq ▸ hq
  · exact h p (not_or.2 ⟨hp, hpq⟩)

section
variable (s : State) (x y : Reg) (nn a b : Byte) (nnn : Imm12)

/-! ## Registers and ALU (41_alu.md) -/

theorem exec_op8XY4 : exec (.op8XY4 x y) s =
    writeFlagResult x (carry (s.readV x) (s.readV y)) (s.readV x + s.readV y) s := rfl

theorem toNat_flagByte_carry : (flagByte (carry a b)).toNat = if a.toNat + b.toNat > 255 then 1 else 0 := by
  simp [carry]

theorem exec_opCXNN : exec (.opCXNN x nn) s = .next (s.drawn.writeV x (Config.randomByte s.draws &&& nn)).advance := rfl

/-- Using up a draw changes no other piece of state. -/
theorem Frame.drawn : Frame s s.drawn (fun p => p = .draws) := by
  intro p hp
  cases p with
  | draws => exact absurd rfl hp
  | _ => rfl

/-! ## Call and return (40_control_flow.md section 1) -/

theorem exec_op2NNN_next (h : s.sp.val < 16) :
    exec (.op2NNN nnn) s = .next ((s.push s.pc h).setPc (addressOf nnn)) := dif_pos h

theorem exec_op00EE_next (h : 0 < s.sp.val) : exec .op00EE s = .next (s.drop.setPc (s.top h + 2)) := dif_pos h

/-- A push changes SP and the entry SP named. -/
theorem Frame.push (w : Word) (h : s.sp.val < 16) :
    Frame s (s.push w h) (fun p => p = .sp ∨ ∃ k : Fin 16, k.val = s.sp.val ∧ p = .stack k) := by
  intro p hp
  rw [not_or] at hp
  cases p with
  | sp => exact absurd rfl hp.1
  | stack k =>
    have hk : k.val ≠ s.sp.val := fun hk => hp.2 ⟨k, hk, rfl⟩
    exact (s.stack_push w h k).trans (if_neg hk)
  | _ => rfl

/-- A pop changes SP only: the popped entry stays (rule R80). -/
theorem Frame.drop : Frame s s.drop (fun p => p = .sp) := by
  intro p hp
  cases p with
  | sp => exact absurd rfl hp
  | _ => rfl

/-- What a call writes: the push, then PC. -/
theorem Frame.push_setPc (w pc : Word) (h : s.sp.val < 16) : Frame s ((s.push w h).setPc pc)
    (fun p => p = .pc ∨ p = .sp ∨ ∃ k : Fin 16, k.val = s.sp.val ∧ p = .stack k) :=
  ((Frame.push s w h).trans (Frame.setPc _ pc)).mono fun _ => Or.symm

/-- What a return writes: the pop, then PC. -/
theorem Frame.drop_setPc (pc : Word) : Frame s (s.drop.setPc pc) (fun p => p = .pc ∨ p = .sp) :=
  ((Frame.drop s).trans (Frame.setPc _ pc)).mono fun _ => Or.symm

/-- A return pops what the call before it pushed, and SP is as before. -/
theorem exec_op00EE_after_push (pc : Word) (h : s.sp.val < 16) :
    ∃ u, exec .op00EE ((s.push s.pc h).setPc pc) = .next u ∧ u.pc = s.pc + 2 ∧ u.sp = s.sp ∧
      Frame s u (fun p => p = .pc ∨ ∃ k : Fin 16, k.val = s.sp.val ∧ p = .stack k) := by
  have hpos : 0 < ((s.push s.pc h).setPc pc).sp.val := Nat.succ_pos _
  have hsp : (((s.push s.pc h).setPc pc).drop).sp = s.sp := rfl
  refine ⟨_, exec_op00EE_next _ hpos, ?pc, hsp, .drop_part (q := .sp) ?frame hsp⟩
  case pc => exact congrArg (· + 2) (s.top_push s.pc h hpos)
  case frame =>
    refine ((Frame.push_setPc s s.pc pc h).trans (Frame.drop_setPc _ _)).mono ?_
    rintro p ((hp | hp | hp) | hp | hp)
    · exact .inl (.inl hp)
    · exact .inr hp
    · exact .inl (.inr hp)
    · exact .inl (.inl hp)
    · exact .inr hp

/-! ## Keys (44_keypad_timers.md sections 1 and 2) -/

theorem exec_opEX9E : exec (.opEX9E x) s = .next (s.skipIf (s.keyDown (lowNibble (s.readV x)))) := rfl

theorem exec_opEXA1 : exec (.opEXA1 x) s = .next (s.skipIf (!s.keyDown (lowNibble (s.readV x)))) := rfl

theorem exec_opFX0A_blocked (h : s.firstKey = none) : exec (.opFX0A x) s = .next s := by
  simp [exec, execFX0A, h]

theorem exec_opFX0A_key {k : KeyIx} (h : s.firstKey = some k) :
    exec (.opFX0A x) s = .next (s.writeV x (k.setWidth 8)).advance := by
  simp [exec, execFX0A, h, writeResult]

end

/-- A key that is down with no lower one down is the first. -/
theorem State.firstKey_of_least {s : State} {k : KeyIx} (hk : s.keyDown k = true)
    (hleast : ∀ j : KeyIx, j.toNat < k.toNat → s.keyDown j = false) : s.firstKey = some k := by
  cases h : s.firstKey with
  | none => exact nomatch hk.symm.trans (State.firstKey_eq_none.1 h k)
  | some j =>
    obtain ⟨hj, hjleast⟩ := State.firstKey_eq_some h
    obtain hlt | heq | hgt := Nat.lt_trichotomy j.toNat k.toNat
    · exact nomatch hj.symm.trans (hleast j hlt)
    · rw [BitVec.eq_of_toNat_eq heq]
    · exact nomatch hk.symm.trans (hjleast k hgt)

/-! ## The statements -/

/-- Settles O14: the sum is written after its flag, and the flag is the carry of the operands as they were. -/
theorem addWithCarry : Obligations.AddWithCarry := by
  refine ⟨encodedAs_op8XY4, fun s x y => ?_⟩
  obtain ⟨t, ht, hx, hf, hpc, hframe⟩ :=
    writeFlagResult_spec s x (s.readV x + s.readV y) (carry (s.readV x) (s.readV y))
  exact ⟨t, (exec_op8XY4 s x y).trans ht, hx ▸ BitVec.toNat_add _ _, fun h => hf h ▸ toNat_flagByte_carry _ _, hpc,
    hframe⟩

/-- Settles O17: one draw and one write of V[X]; masking acts on every bit alone. -/
theorem maskedRandomByte : Obligations.MaskedRandomByte :=
  ⟨encodedAs_opCXNN, fun s x nn =>
    ⟨_, exec_opCXNN s x nn, fun k _ => by simp, rfl, rfl,
      ((Frame.drawn s).trans (Frame.writeV_advance _ x _)).mono fun _ h => or_assoc.1 h.symm⟩⟩

/-- Settles O19: a push of PC and a jump, or the one fault of 2NNN. -/
theorem callPushesOwnAddress : Obligations.CallPushesOwnAddress :=
  ⟨encodedAs_op2NNN, fun s nnn =>
    ⟨fun h => ⟨_, exec_op2NNN_next s nnn h, rfl, fun k hk => (s.stack_push s.pc h k).trans (if_pos hk),
      toNat_addressOf nnn, Frame.push_setPc s _ _ h⟩,
     fun h => exec_op2NNN_eq_fault.2 ⟨h, rfl⟩⟩⟩

/-- Settles O20: a pop and a move of PC past the popped address, or the one fault of 00EE. -/
theorem returnGoesOnAfterTheCall : Obligations.ReturnGoesOnAfterTheCall := by
  refine ⟨encodedAs_op00EE, fun s => ⟨fun h => ?_, fun h => exec_op00EE_eq_fault.2 ⟨h, rfl⟩⟩⟩
  obtain ⟨top, htop, heq⟩ := s.top_eq h
  refine ⟨_, exec_op00EE_next s h, rfl, fun k hk => ?_, Frame.drop_setPc s _⟩
  have hkt : k = top := Fin.ext (hk.trans htop.symm)
  exact hkt ▸ congrArg (· + 2) heq

/-- Settles O22: the call is fetched, then 00EE at its target, which pops what the call pushed. -/
theorem callThenReturn : Obligations.CallThenReturn := by
  intro s nnn hfetch hsp hnnn hhi hlo
  obtain ⟨u, hret, hpc, hspu, hframe⟩ := exec_op00EE_after_push s (addressOf nnn) hsp
  have hcall := (step_decoded hfetch (decode_encode _)).trans (exec_op2NNN_next s nnn hsp)
  have hword : ((s.push s.pc hsp).setPc (addressOf nnn)).fetchWord = .ok (encode .op00EE) := by
    have hin : (addressOf nnn).toNat + 1 < 4096 := by
      rw [toNat_addressOf]
      omega
    rw [State.fetchWord_ok _ hin]
    simp [hhi, hlo, encode, wordOf]
  exact ⟨_, u, hcall, (step_decoded hword (decode_encode _)).trans hret, hpc, hspu, hframe⟩

/-- Settles O34: each is one skip, on the level of the key the low nibble names. -/
theorem keySkips : Obligations.KeySkips := by
  refine ⟨encodedAs_opEX9E, encodedAs_opEXA1, fun s x k hk => ?_⟩
  have hkey : lowNibble (s.readV x) = k := BitVec.eq_of_toNat_eq ((toNat_lowNibble _).trans hk.symm)
  refine ⟨⟨_, exec_opEX9E s x, ?down, Frame.skipIf s _⟩, ⟨_, exec_opEXA1 s x, ?up, Frame.skipIf s _⟩⟩
  case down => rw [hkey, State.skipIf_pc]
  case up => cases h : s.keyDown k <;> simp [hkey, h]

/-- Settles O35: the first key down decides, and with none the instruction is blocked. -/
theorem waitForKey : Obligations.WaitForKey := by
  refine ⟨encodedAs_opFX0A, fun s x => ⟨fun k hk hleast => ?_, fun h => ?_⟩⟩
  · refine ⟨_, exec_opFX0A_key s x (State.firstKey_of_least hk hleast), ?_, rfl, Frame.writeV_advance s x _⟩
    rw [State.advance_readV, State.readV_writeV_self, BitVec.toNat_setWidth_of_le (by decide)]
  · exact exec_opFX0A_blocked s x (State.firstKey_eq_none.2 h)

end Sys2Proof.Machine
end

section
/-! PROOFS. Address register, stores and loads (42_index_memory.md): what a block of writes to memory or to registers
leaves alone, and that bytes come back as they were stored, to FX65 and to a fetch. -/

namespace Sys2Proof.Machine

/-- Byte k of a block that was written is what address `a + k` reads. -/
theorem Memory.read_writeBytes_add (m : Memory) (a : Nat) (ws : List Byte) {k : Nat} (hk : k < ws.length)
    (h : a + ws.length ≤ Config.memSize) : (m.writeBytes a ws).read (a + k) = ws.getD k 0 := by
  rw [Memory.read_writeBytes m a ws h, if_pos (by omega), Nat.add_sub_cancel_left]

/-- No digit of a byte is truncated (rule R123). -/
theorem toNat_decimalDigits (a : Byte) : ((decimalDigits a).getD 0 0).toNat = a.toNat / 100 ∧
    ((decimalDigits a).getD 1 0).toNat = a.toNat / 10 % 10 ∧ ((decimalDigits a).getD 2 0).toNat = a.toNat % 10 := by
  have ha := a.isLt
  refine ⟨?_, ?_, ?_⟩ <;> simp [decimalDigits] <;> omega

section
variable (s t : State) (x r : Reg)

/-! ## Frames of block writes -/

/-- A block of writes to memory changes the bytes of the block only. -/
theorem Frame.setMem_writeBytes (a : Nat) (ws : List Byte) :
    Frame s (s.setMem (s.mem.writeBytes a ws)) (fun p => ∃ k, k < ws.length ∧ p = .mem (a + k)) := by
  intro p hp
  cases p with
  | mem c =>
    refine Memory.read_writeBytes_outside s.mem a ws c ?_
    by_contra hin
    exact hp ⟨c - a, by omega, congrArg Part.mem (by omega)⟩
  | _ => rfl

/-- FX65's writes change the first n registers only. -/
theorem Frame.writeBlock (f : Nat → Byte) {n : Nat} (hn : n ≤ 16) :
    Frame s (s.writeBlock f n) (fun p => ∃ q : Reg, q.toNat < n ∧ p = .v q) := by
  intro p hp
  cases p with
  | v q =>
    have hq : ¬ q.toNat < n := fun hlt => hp ⟨q, hlt, rfl⟩
    exact (s.readV_writeBlock f n hn q).trans (if_neg hq)
  | _ => simp [SamePart]

/-! ## I past a block -/

/-- With the whole block in memory, moving I past it does not wrap. -/
theorem toNat_passBlock (h : s.i.toNat + x.toNat < 4096) :
    (s.passBlock x).i.toNat = s.i.toNat + x.toNat + 1 := by
  simp only [State.passBlock_i, BitVec.toNat_add, BitVec.toNat_ofNat, blockLength]
  omega

theorem blockLength_le : blockLength x ≤ 16 := x.isLt

/-! ## What the instructions do -/

theorem exec_opFX1E : exec (.opFX1E x) s =
    .next ((s.setI (BitVec.ofNat 16 (s.i.toNat + (s.readV x).toNat))).writeFlag
      (beyond12 (s.i.toNat + (s.readV x).toNat))).advance := rfl

theorem exec_opFX29 : exec (.opFX29 x) s = .next (s.setI (glyphAddress (lowNibble (s.readV x)))).advance := rfl

theorem exec_opFX33 : exec (.opFX33 x) s =
    checkRange (.opFX33 x) s 3 (.next (s.storeAtI (decimalDigits (s.readV x))).advance) := rfl

theorem exec_opFX55 : exec (.opFX55 x) s =
    checkRange (.opFX55 x) s (blockLength x) (.next ((s.storeAtI (s.block x)).passBlock x).advance) := rfl

theorem exec_opFX65 : exec (.opFX65 x) s = checkRange (.opFX65 x) s (blockLength x)
    (.next ((s.writeBlock (fun k => s.mem.read (s.i.toNat + k)) (blockLength x)).passBlock x).advance) := rfl

/-- The range check of FX55 and FX65 passes with the whole block in memory. -/
theorem checkRange_block_ok (i : Instr) (k : Result) (h : s.i.toNat + x.toNat < 4096) :
    checkRange i s (blockLength x) k = k :=
  checkRange_ok i s _ k fun _ => h

/-- The range check of FX55 and FX65 faults with the block reaching 4096. -/
theorem checkRange_block_fault (i : Instr) (k : Result) (h : 4096 ≤ s.i.toNat + x.toNat) :
    checkRange i s (blockLength x) k = .fault (.addressOutOfRange s.pc (some (encode i)) (max s.i.toNat 4096)) :=
  checkRange_fault i s _ k (Nat.succ_pos _) (Nat.lt_succ_of_le h)

variable {s t x r}

/-- FX55 completes only with the whole block in memory. -/
theorem exec_opFX55_eq_next (h : exec (.opFX55 x) s = .next t) :
    s.i.toNat + x.toNat < 4096 ∧ t = ((s.storeAtI (s.block x)).passBlock x).advance := by
  obtain ⟨hin, ht⟩ := checkRange_next h
  exact ⟨hin (Nat.succ_pos _), (Host.Outcome.next.inj ht).symm⟩

/-- The block FX55 stored reads as the registers were. -/
theorem read_storeAtI_block (hin : s.i.toNat + x.toNat < 4096) (hr : r.toNat ≤ x.toNat) :
    (s.storeAtI (s.block x)).mem.read (s.i.toNat + r.toNat) = s.readV r := by
  have hlt : r.toNat < (s.block x).length := s.length_block x ▸ Nat.lt_succ_of_le hr
  have hfits : s.i.toNat + (s.block x).length ≤ Config.memSize := s.length_block x ▸ hin
  rw [State.storeAtI_mem, Memory.read_writeBytes_add _ _ _ hlt hfits, s.getD_block x r hr]

/-- The registers FX65 loaded hold what the block of memory reads. -/
theorem readV_loadBlock (hr : r.toNat ≤ x.toNat) :
    (s.writeBlock (fun k => s.mem.read (s.i.toNat + k)) (blockLength x)).readV r =
      s.mem.read (s.i.toNat + r.toNat) := by
  have hlt : r.toNat < blockLength x := Nat.lt_succ_of_le hr
  rw [State.readV_writeBlock _ _ _ (blockLength_le x), if_pos hlt]

end

/-! ## The statements -/

/-- Settles O24: I is written before the flag, which is the flag of the same untruncated sum. -/
theorem addToAddressRegister : Obligations.AddToAddressRegister :=
  ⟨encodedAs_opFX1E, fun s x =>
    ⟨_, exec_opFX1E s x, BitVec.toNat_ofNat _ _, by simp [beyond12], rfl,
      ((Frame.setI s _).trans (Frame.writeV_advance _ VF _))⟩⟩

/-- Settles O25: one write of I, with the glyph of the digit (`glyphAddress` itself is the model's function). -/
theorem glyphAddress_holds : Obligations.GlyphAddress :=
  ⟨encodedAs_opFX29, fun s x => ⟨_, exec_opFX29 s x, by simp, rfl, Frame.setI_advance s _⟩⟩

/-- Settles O26: the three digits are stored in range, and out of it the check faults first. -/
theorem storeDecimalDigits : Obligations.StoreDecimalDigits := by
  refine ⟨encodedAs_opFX33, fun s x => ⟨fun h => ?_, fun h => ?_⟩⟩
  · have hread : ∀ k, k < 3 → (s.mem.writeBytes s.i.toNat (decimalDigits (s.readV x))).read (s.i.toNat + k) =
        (decimalDigits (s.readV x)).getD k 0 := fun k hk => Memory.read_writeBytes_add _ _ _ hk h
    obtain ⟨hhundreds, htens, hunits⟩ := toNat_decimalDigits (s.readV x)
    refine ⟨_, (exec_opFX33 s x).trans (checkRange_ok _ _ _ _ fun _ => h),
      (congrArg BitVec.toNat (hread 0 (by decide))).trans hhundreds,
      (congrArg BitVec.toNat (hread 1 (by decide))).trans htens,
      (congrArg BitVec.toNat (hread 2 (by decide))).trans hunits, rfl, ?frame⟩
    case frame =>
      refine ((Frame.setMem_writeBytes s _ _).trans (Frame.setPc _ _)).mono ?_
      rintro p (⟨k, hk, rfl⟩ | rfl)
      · exact .inr ⟨k, Nat.le_of_lt_succ hk, rfl⟩
      · exact .inl rfl
  · exact (exec_opFX33 s x).trans (checkRange_fault _ _ _ _ (by decide) (Nat.lt_succ_of_le h))

/-- Settles O27: a block of writes in range, and out of it the check faults first. -/
theorem storeRegisterBlock : Obligations.StoreRegisterBlock := by
  refine ⟨encodedAs_opFX55, fun s x => ⟨fun h => ?_, fun h => ?_⟩⟩
  · refine ⟨_, (exec_opFX55 s x).trans (checkRange_block_ok s x _ _ h), fun r hr => read_storeAtI_block h hr,
      toNat_passBlock s x h, rfl, ?_⟩
    refine ((Frame.setMem_writeBytes s _ _).trans (Frame.setI_advance _ _)).mono ?_
    rintro p (⟨k, hk, rfl⟩ | hp | hp)
    · rw [State.length_block] at hk
      exact .inr (.inr ⟨k, Nat.le_of_lt_succ hk, rfl⟩)
    · exact .inl hp
    · exact .inr (.inl hp)
  · exact (exec_opFX55 s x).trans (checkRange_block_fault s x _ _ h)

/-- Settles O28: a block of register writes in range, and out of it the check faults first. -/
theorem loadRegisterBlock : Obligations.LoadRegisterBlock := by
  refine ⟨encodedAs_opFX65, fun s x => ⟨fun h => ?_, fun h => ?_⟩⟩
  · refine ⟨_, (exec_opFX65 s x).trans (checkRange_block_ok s x _ _ h), fun r hr => readV_loadBlock hr, ?_, ?_, ?_⟩
    · simpa using toNat_passBlock s x h
    · simp
    refine ((Frame.writeBlock s _ (blockLength_le x)).trans (Frame.setI_advance _ _)).mono ?_
    rintro p (⟨r, hr, rfl⟩ | hp | hp)
    · exact .inr (.inr ⟨r, Nat.le_of_lt_succ hr, rfl⟩)
    · exact .inl hp
    · exact .inr (.inl hp)
  · exact (exec_opFX65 s x).trans (checkRange_block_fault s x _ _ h)

/-- Settles O29: both ranges are the same one, so FX65 passes its check too and reads what FX55 stored. -/
theorem storeThenLoadRestoresRegisters : Obligations.StoreThenLoadRestoresRegisters := by
  intro s t x v h
  obtain ⟨hin, rfl⟩ := exec_opFX55_eq_next h
  refine ⟨_, (exec_opFX65 _ x).trans (checkRange_block_ok _ x _ _ hin), fun r hr => ?_, ?_⟩
  · exact (readV_loadBlock hr).trans (read_storeAtI_block hin hr)
  · simp

/-- Settles O30: a fetch reads two stored bytes, those of V[r] and of V[r + 1]. -/
theorem storedBytesAreFetched : Obligations.StoredBytesAreFetched := by
  intro s t x r pc h hr hpc
  obtain ⟨hin, rfl⟩ := exec_opFX55_eq_next h
  have hsucc : (r + 1).toNat = r.toNat + 1 := by
    have hx : x.toNat < 16 := x.isLt
    rw [BitVec.toNat_add]
    simp
    omega
  have hnext : pc.toNat + 1 = s.i.toNat + (r + 1).toNat := by omega
  rw [State.fetchWord_ok _ (show pc.toNat + 1 < 4096 by omega)]
  have hhi := read_storeAtI_block hin (Nat.le_of_lt hr)
  have hlo := read_storeAtI_block hin (show (r + 1).toNat ≤ x.toNat by omega)
  rw [← hpc] at hhi
  rw [← hnext] at hlo
  exact congrArg Except.ok (congrArg₂ wordOf hhi hlo)

end Sys2Proof.Machine
end

section
/-! PROOFS. Drawing (43_display.md): the cells under a sprite as rule R141 names them, and a sprite drawn twice. -/

namespace Sys2Proof.Machine

theorem Memory.getD_readBytes (m : Memory) (a : Nat) {len k : Nat} (hk : k < len) :
    (m.readBytes a len).getD k 0 = m.read (a + k) := by
  simp [Memory.readBytes, hk]

/-- The cells under a 1 of a sprite in memory, in the words of rule R141. -/
theorem spriteLit_readBytes (m : Memory) (a n x0 y0 : Nat) (px : Fin 64) (py : Fin 32) :
    SpriteLit x0 y0 0 (m.readBytes a n) px py ↔
      ∃ r c, r < n ∧ c < 8 ∧ px.val = (x0 + c) % 64 ∧ py.val = (y0 + r) % 32 ∧
        (m.read (a + r)).getLsbD (7 - c) = true := by
  constructor
  · rintro ⟨r, hr, rfl, c, hc, hbit, rfl⟩
    rw [Memory.length_readBytes] at hr
    rw [Memory.getD_readBytes m a hr] at hbit
    exact ⟨r, c, hr, hc, rfl, by simp [line], hbit⟩
  · rintro ⟨r, c, hr, hc, hx, hy, hbit⟩
    refine ⟨r, (Memory.length_readBytes ..).symm ▸ hr, Fin.ext (by simpa [line] using hy), c, hc, ?_, Fin.ext hx⟩
    rwa [Memory.getD_readBytes m a hr]

/-- A sprite row that is not 0 has a 1 in some column. -/
theorem exists_bit_of_ne_zero {b : Byte} (h : b ≠ 0) : ∃ c, c < 8 ∧ b.getLsbD (7 - c) = true := by
  by_contra hall
  push Not at hall
  refine h (BitVec.eq_of_getLsbD_eq fun k hk => ?_)
  have hbit := hall (7 - k) (by omega)
  rw [show 7 - (7 - k) = k by omega] at hbit
  simpa using hbit

section
variable (x0 y0 : Nat) (bs : List Byte) (fb : FrameBuffer) (hlen : bs.length ≤ 32)
include hlen

/-- Turning the same cells over twice restores every cell. -/
theorem drawSprite_twice : (drawSprite x0 y0 bs (drawSprite x0 y0 bs fb).1).1 = fb := by
  refine FrameBuffer.ext fun px py => ?_
  obtain ⟨hlit1, hoff1⟩ := (drawSprite_spec x0 y0 bs fb hlen).1 px py
  obtain ⟨hlit2, hoff2⟩ := (drawSprite_spec x0 y0 bs (drawSprite x0 y0 bs fb).1 hlen).1 px py
  by_cases h : SpriteLit x0 y0 0 bs px py
  · rw [hlit2 h, hlit1 h, Bool.not_not]
  · rw [hoff2 h, hoff1 h]

/-- A cell under the sprite that was off makes the second of two draws collide: it was lit by the first. -/
theorem drawSprite_twice_collides {px : Fin 64} {py : Fin 32} (h : SpriteLit x0 y0 0 bs px py)
    (hoff : fb.pixel px py = false) : (drawSprite x0 y0 bs (drawSprite x0 y0 bs fb).1).2 = true := by
  have hlit := ((drawSprite_spec x0 y0 bs fb hlen).1 px py).1 h
  exact (drawSprite_spec x0 y0 bs _ hlen).2.2 ⟨px, py, h, by simp [hlit, hoff]⟩

end

/-- What DXYN draws in a state: the new framebuffer and the collision. -/
def State.sprite (s : State) (x y : Reg) (n : Nibble) : FrameBuffer × Bool :=
  drawSprite (s.readV x).toNat (s.readV y).toNat (s.mem.readBytes s.i.toNat n.toNat) s.fb

/-- The state DXYN leaves when its rows are in range (rule R141). -/
def State.drawnSprite (s : State) (x y : Reg) (n : Nibble) : State :=
  (((s.setFb (s.sprite x y n).1).writeFlag (s.sprite x y n).2).setDf true).advance

section
variable (s : State) (x y : Reg) (n : Nibble)

theorem exec_opDXYN : exec (.opDXYN x y n) s = checkRange (.opDXYN x y n) s n.toNat (.next (s.drawnSprite x y n)) := rfl

theorem length_sprite_le : (s.mem.readBytes s.i.toNat n.toNat).length ≤ 32 := by
  have hn : n.toNat < 16 := n.isLt
  rw [Memory.length_readBytes]
  omega

/-- DXYN writes cells, VF, DF and PC. -/
theorem Frame.drawnSprite : Frame s (s.drawnSprite x y n)
    (fun p => p = .v VF ∨ p = .df ∨ p = .pc ∨ ∃ px py, p = .cell px py) := by
  refine ((Frame.setFb s _).trans ((Frame.writeV _ VF _).trans ((Frame.setDf _ true).trans (Frame.setPc _ _)))).mono ?_
  rintro p (hp | hp | hp | hp)
  · exact .inr (.inr (.inr hp))
  · exact .inl hp
  · exact .inr (.inl hp)
  · exact .inr (.inr (.inl hp))

/-- VF after DXYN is the collision, when X or Y is F too: the operands are read first (rule R24). -/
theorem drawnSprite_readV_VF : (s.drawnSprite x y n).readV VF = flagByte (s.sprite x y n).2 :=
  State.readV_writeFlag_VF _ _

variable {s x y n}

/-- With VF no coordinate, a second DXYN draws the same sprite at the same place. -/
theorem sprite_drawnSprite (hx : x ≠ VF) (hy : y ≠ VF) : (s.drawnSprite x y n).sprite x y n =
    drawSprite (s.readV x).toNat (s.readV y).toNat (s.mem.readBytes s.i.toNat n.toNat) (s.sprite x y n).1 := by
  have hread : ∀ r, r ≠ VF → (s.drawnSprite x y n).readV r = s.readV r := fun r hr =>
    Frame.drawnSprite s x y n (.v r) (by simp [hr])
  rw [State.sprite, hread x hx, hread y hy]
  rfl

end

/-! ## The statements -/

/-- Settles O32: the drawn sprite's cells and its collision, under the check of its rows (`drawSprite` itself is the
model's function). -/
theorem drawSprite_holds : Obligations.DrawSprite := by
  refine ⟨encodedAs_opDXYN, fun s x y n => ⟨fun h => ?_, fun h1 h => ?_⟩⟩
  · have hspec := drawSprite_spec (s.readV x).toNat (s.readV y).toNat _ s.fb (length_sprite_le s n)
    simp only [spriteLit_readBytes] at hspec
    obtain ⟨hcell, hcollide⟩ := hspec
    have hin : 1 ≤ n.toNat → s.i.toNat + n.toNat ≤ 4096 := fun hn => by omega
    refine ⟨_, (exec_opDXYN s x y n).trans (checkRange_ok _ _ _ _ hin), hcell, fun hlit => ?_, fun hdark => ?_,
      rfl, rfl, Frame.drawnSprite s x y n⟩
    · rw [drawnSprite_readV_VF, State.sprite, hcollide.2 hlit]
      rfl
    · rw [drawnSprite_readV_VF, State.sprite, Bool.eq_false_iff.2 (mt hcollide.1 hdark)]
      rfl
  · have hout : 4096 < s.i.toNat + n.toNat := by omega
    exact (exec_opDXYN s x y n).trans (checkRange_fault _ _ _ _ h1 hout)

/-- Settles O33: the second draw turns the same cells over again, and a cell under the sprite is lit before the one draw
or the other. -/
theorem drawingTwiceRestores : Obligations.DrawingTwiceRestores := by
  intro s t x y n hx hy h
  obtain ⟨hin, ht⟩ := checkRange_next h
  obtain rfl : s.drawnSprite x y n = t := Host.Outcome.next.inj ht
  have hlen := length_sprite_le s n
  have htwice := sprite_drawnSprite (s := s) (n := n) hx hy
  refine ⟨_, (exec_opDXYN _ x y n).trans (checkRange_ok _ _ _ _ hin), ?restored, ?collides⟩
  case restored => exact (congrArg Prod.fst htwice).trans (drawSprite_twice _ _ _ _ hlen)
  case collides =>
    rintro ⟨r, hr, hrow⟩
    obtain ⟨c, hc, hbit⟩ := exists_bit_of_ne_zero hrow
    have hlit := (spriteLit_readBytes s.mem s.i.toNat n.toNat (s.readV x).toNat (s.readV y).toNat (column _) (line _)).2
      ⟨r, c, hr, hc, rfl, rfl, hbit⟩
    have hsecond : s.fb.pixel (column ((s.readV x).toNat + c)) (line ((s.readV y).toNat + r)) = false →
        ((s.drawnSprite x y n).drawnSprite x y n).readV VF = 1 := fun hoff => by
      rw [drawnSprite_readV_VF, htwice, State.sprite, drawSprite_twice_collides _ _ _ _ hlen hlit hoff]
      rfl
    refine ⟨?_, fun hclear => hsecond (hclear _ _)⟩
    cases hpix : s.fb.pixel (column ((s.readV x).toNat + c)) (line ((s.readV y).toNat + r)) with
    | false => exact .inr (hsecond hpix)
    | true =>
      rw [drawnSprite_readV_VF, State.sprite, (drawSprite_spec _ _ _ s.fb hlen).2.2 ⟨_, _, hlit, hpix⟩]
      exact .inl rfl

end Sys2Proof.Machine
end

section
/-! PROOFS. Fetch, step and report (30_encoding.md sections 1, 3 and 6, 60_exceptions.md section 2): where a fetch
faults, what a step does with the word it fetched, and what it answers. -/

namespace Sys2Proof.Machine

section
variable {s : State} {w : Word} {i : Instr}

/-! ## A fetch out of range (rule R61) -/

theorem fetchWord_error_first (h : 0x1000 ≤ s.pc.toNat) : s.fetchWord = .error s.pc.toNat := by
  simp [State.fetchWord, s.memRead_error h]

theorem fetchWord_error_second (h : s.pc.toNat = 0xFFF) : s.fetchWord = .error 0x1000 := by
  simp [State.fetchWord, h, State.memRead]

theorem step_of_fetch_error {addr : Nat} (h : s.fetchWord = .error addr) :
    step s = .fault (.addressOutOfRange s.pc none addr) := by
  simp [step, h, raise, fetchFault]

theorem stepReport_of_fetch_error {addr : Nat} (h : s.fetchWord = .error addr) :
    stepReport s = .fault (.addressOutOfRange s.pc none addr) := by
  simp [stepReport, h, fetchFault]

/-! ## A word that is no instruction (rule R66) -/

theorem step_unrecognized (hf : s.fetchWord = .ok w) (hd : decode w = .error (.unrecognized w)) :
    step s = .next (s.setPc (s.pc + 2)) := by
  simp [step, hf, hd, execUnrecognized, State.advance]

theorem stepReport_unrecognized (hf : s.fetchWord = .ok w) (hd : decode w = .error (.unrecognized w)) :
    stepReport s = .unrecognized w := by
  simp [stepReport, hf, hd]

/-! ## A word that is one -/

theorem stepReport_decoded (hf : s.fetchWord = .ok w) (hd : decode w = .ok i) : stepReport s = execReport i s := by
  simp [stepReport, hf, hd]

/-- No arm of `exec` is a refusal. -/
theorem exec_ne_refused (r : Refusal) : exec i s ≠ .refused r := by
  cases i with
  | op00EE | op2NNN =>
    simp only [exec, exec00EE, exec2NNN, raise]
    split <;> nofun
  | opDXYN | opFX33 | opFX55 | opFX65 =>
    simp only [exec, execDXYN, execFX33, execFX55, execFX65, checkRange, raise]
    split <;> nofun
  | opFX0A =>
    simp only [exec, execFX0A, writeResult]
    split <;> nofun
  | _ => nofun

/-- FX0A with no key down is the one instruction that blocks (rule R5). -/
theorem blocks_iff : blocks i s = true ↔ ∃ x, i = .opFX0A x ∧ ∀ k, s.keyDown k = false := by
  rw [← State.firstKey_eq_none, ← Option.isNone_iff_eq_none]
  cases i with
  | opFX0A x => simp [blocks]
  | _ => simp [blocks]

theorem exec_of_blocks (h : blocks i s = true) : exec i s = .next s := by
  obtain ⟨x, rfl, hkeys⟩ := blocks_iff.1 h
  exact exec_opFX0A_blocked s x (State.firstKey_eq_none.2 hkeys)

theorem execReport_eq_blocked : execReport i s = .blocked ↔ blocks i s = true := by
  constructor
  · intro h
    unfold execReport at h
    split at h
    · by_contra hb
      simp [hb] at h
    · exact nomatch h
    · exact nomatch h
  · intro h
    simp [execReport, exec_of_blocks h, h]

/-- Everything the report of an executed instruction can be, with the result it goes with. -/
theorem execReport_cases (i : Instr) (s : State) :
    (∃ f, execReport i s = .fault f ∧ exec i s = .fault f) ∨
    (execReport i s = .blocked ∧ exec i s = .next s) ∨
    (execReport i s = .ok ∧ ∃ t, exec i s = .next t) := by
  cases h : exec i s with
  | fault f => exact .inl ⟨f, by simp [execReport, h], rfl⟩
  | refused r => exact absurd h (exec_ne_refused r)
  | next t =>
    cases hb : blocks i s with
    | true => exact .inr (.inl ⟨execReport_eq_blocked.2 hb, h.symm.trans (exec_of_blocks hb)⟩)
    | false => exact .inr (.inr ⟨by simp [execReport, h, hb], t, rfl⟩)

/-- A step is reported as blocked exactly when the word it fetched is FX0A's and no key is down. -/
theorem stepReport_eq_blocked :
    stepReport s = .blocked ↔ ∃ x, s.fetchWord = .ok (encode (.opFX0A x)) ∧ ∀ k, s.keyDown k = false := by
  constructor
  · intro h
    unfold stepReport at h
    split at h
    · exact nomatch h
    · rename_i w hf
      split at h
      · rename_i i hd
        obtain ⟨x, rfl, hkeys⟩ := blocks_iff.1 (execReport_eq_blocked.1 h)
        exact ⟨x, encode_of_decode hd ▸ hf, hkeys⟩
      · exact nomatch h
  · rintro ⟨x, hf, hkeys⟩
    rw [stepReport_decoded hf (decode_encode _), execReport_eq_blocked]
    exact blocks_iff.2 ⟨x, rfl, hkeys⟩

/-- What a fetch comes to: an address out of range, a word that is no instruction, or one that is. -/
theorem fetch_cases (s : State) : (∃ addr, s.fetchWord = .error addr) ∨
    (∃ w, s.fetchWord = .ok w ∧ decode w = .error (.unrecognized w)) ∨
    ∃ w i, s.fetchWord = .ok w ∧ decode w = .ok i := by
  cases hf : s.fetchWord with
  | error addr => exact .inl ⟨addr, rfl⟩
  | ok w =>
    cases hd : decode w with
    | error e => exact .inr (.inl ⟨w, rfl, decode_error w e hd ▸ hd⟩)
    | ok i => exact .inr (.inr ⟨w, i, rfl, hd⟩)

end

/-! ## The statements -/

/-- Settles O6: below 0xFFF both reads are in range, at 0xFFF the second is not, above it the first is not. -/
theorem fetchReadsBigEndianWordOrFaults : Obligations.FetchReadsBigEndianWordOrFaults := fun s =>
  ⟨fun h => ⟨_, s.fetchWord_ok (Nat.lt_succ_of_le (Nat.succ_le_succ h)), toNat_wordOf _ _⟩,
   fun h => step_of_fetch_error (fetchWord_error_second h),
   fun h => step_of_fetch_error (fetchWord_error_first h)⟩

/-- Settles O7: the byte decoder on two bytes is the decoder on the word the fetch makes of them. -/
theorem stepRunsDecodedInstruction : Obligations.StepRunsDecodedInstruction := by
  intro s i hpc hbytes
  refine step_decoded (s.fetchWord_ok (Nat.lt_succ_of_le (Nat.succ_le_succ hpc))) ?_
  cases hd : decode (wordOf (s.mem.read s.pc.toNat) (s.mem.read (s.pc.toNat + 1))) <;> simp [decodeBytes, hd] at hbytes
  exact congrArg Except.ok hbytes

/-- Settles O8: a word the check refuses is one the decoder refuses. -/
theorem unrecognizedWordIsReportedNoOp : Obligations.UnrecognizedWordIsReportedNoOp := by
  intro s w hf hw
  have hd := decode_eq_error_iff.2 hw
  exact ⟨stepReport_unrecognized hf hd, _, step_unrecognized hf hd, rfl, Frame.setPc s _⟩

/-- Settles O9: by what was fetched; a fetch faults, an unrecognized word is a no-op, and an instruction does one of
three things. -/
theorem stepHasOneOfFourResults : Obligations.StepHasOneOfFourResults := by
  refine fun s => ⟨?_, stepReport_eq_blocked⟩
  obtain ⟨addr, hf⟩ | ⟨w, hf, hd⟩ | ⟨w, i, hf, hd⟩ := fetch_cases s
  · exact .inl ⟨_, stepReport_of_fetch_error hf, step_of_fetch_error hf⟩
  · exact .inr (.inl ⟨w, stepReport_unrecognized hf hd, hf, step_unrecognized hf hd⟩)
  · rw [stepReport_decoded hf hd, step_decoded hf hd]
    exact (execReport_cases i s).imp_right .inr

/-- Settles O10: neither a fetch, nor the no-op, nor an instruction is a refusal. -/
theorem stepIsNeverRefused : Obligations.StepIsNeverRefused := by
  intro s r h
  obtain ⟨addr, hf⟩ | ⟨w, hf, hd⟩ | ⟨w, i, hf, hd⟩ := fetch_cases s
  · exact nomatch (step_of_fetch_error hf).symm.trans h
  · exact nomatch (step_unrecognized hf hd).symm.trans h
  · exact exec_ne_refused r ((step_decoded hf hd).symm.trans h)

/-- Settles O53: the jump writes into PC the value it has. -/
theorem endedRunStaysPut : Obligations.EndedRunStaysPut := by
  rintro s haltPc ⟨hpc, hf⟩
  have hexec : exec (.op1NNN haltPc) s = .next s := (exec_op1NNN s haltPc).trans (by rw [← hpc]; rfl)
  have hd := decode_encode (.op1NNN haltPc)
  refine ⟨(step_decoded hf hd).trans hexec, ?_⟩
  rw [stepReport_decoded hf hd]
  simp [execReport, hexec, blocks]

end Sys2Proof.Machine
end

section
/-! PROOFS. Whole-machine rules: what every instruction writes (10_state.md sections 1 and 12), where PC goes
(30_encoding.md section 3), what no instruction reads (10_state.md section 9), and which accesses fault
(60_exceptions.md section 1). -/

namespace Sys2Proof.Machine

section
variable {s t : State} {i : Instr}

/-! ## The instructions that complete in some states only -/

/-- 2NNN completes only with room on the stack. -/
theorem exec_op2NNN_eq_next {nnn : Imm12} (h : exec (.op2NNN nnn) s = .next t) :
    ∃ hsp : s.sp.val < 16, t = (s.push s.pc hsp).setPc (addressOf nnn) := by
  by_cases hsp : s.sp.val < 16
  · exact ⟨hsp, Host.Outcome.next.inj (h.symm.trans (exec_op2NNN_next s nnn hsp))⟩
  · have hfull := exec_op2NNN_eq_fault (nnn := nnn).2 ⟨show s.sp.val = 16 by omega, rfl⟩
    exact nomatch h.symm.trans hfull

/-- 00EE completes only with an entry on the stack. -/
theorem exec_op00EE_eq_next (h : exec .op00EE s = .next t) :
    ∃ hsp : 0 < s.sp.val, t = s.drop.setPc (s.top hsp + 2) := by
  by_cases hsp : 0 < s.sp.val
  · exact ⟨hsp, Host.Outcome.next.inj (h.symm.trans (exec_op00EE_next s hsp))⟩
  · have hempty := exec_op00EE_eq_fault.2 ⟨show s.sp.val = 0 by omega, rfl⟩
    exact nomatch h.symm.trans hempty

/-- FX0A blocks, or loads the first key. -/
theorem exec_opFX0A_eq_next {x : Reg} (h : exec (.opFX0A x) s = .next t) :
    (s.firstKey = none ∧ t = s) ∨ ∃ k, s.firstKey = some k ∧ t = (s.writeV x (k.setWidth 8)).advance := by
  cases hk : s.firstKey with
  | none => exact .inl ⟨rfl, Host.Outcome.next.inj (h.symm.trans (exec_opFX0A_blocked s x hk))⟩
  | some k => exact .inr ⟨k, rfl, Host.Outcome.next.inj (h.symm.trans (exec_opFX0A_key s x hk))⟩

/-! ## What an instruction writes (rule R26) -/

/-- A change of PC alone is in every row. -/
theorem Frame.mayWrite_setPc (i : Instr) (pc : Word) : Frame s (s.setPc pc) (mayWrite i s) :=
  (Frame.setPc s pc).mono fun _ hp => hp ▸ trivial

/-- A write of V[X] is in the row of an instruction that names it as destination. -/
theorem Frame.mayWrite_result {x : Reg} (b : Byte) (hd : destination i x) :
    Frame s (s.writeV x b).advance (mayWrite i s) := by
  refine (Frame.writeV_advance s x b).mono ?_
  rintro p (rfl | rfl)
  · exact .inl hd
  · trivial

/-- A flag and a result are in the row of an instruction of the flag list that names V[X] as destination. -/
theorem Frame.mayWrite_flagResult {x : Reg} (flag : Bool) (b : Byte) (hd : destination i x) (hf : writesFlag i = true) :
    Frame s ((s.writeFlag flag).writeV x b).advance (mayWrite i s) := by
  refine (Frame.writeFlag_writeV_advance s x b flag).mono ?_
  rintro p (rfl | rfl | rfl)
  · exact .inl hd
  · exact .inr ⟨hf, rfl⟩
  · trivial

/-- Everything an instruction writes is in its row of the table. -/
theorem exec_frame (h : exec i s = .next t) : Frame s t (mayWrite i s) := by
  cases i with
  | op1NNN | opBNNN | op3XNN | op4XNN | op5XY0 | op9XY0 | opEX9E | opEXA1 =>
    cases h
    exact .mayWrite_setPc _ _
  | op6XNN | op7XNN | op8XY0 | op8XY1 | op8XY2 | op8XY3 | opFX07 =>
    cases h
    exact .mayWrite_result _ rfl
  | op8XY4 | op8XY5 | op8XY6 | op8XY7 | op8XYE =>
    cases h
    exact .mayWrite_flagResult _ _ rfl rfl
  | op00E0 =>
    cases h
    refine (Frame.setFb_setDf_advance s _ _).mono ?_
    rintro p (rfl | rfl | ⟨px, py, rfl⟩)
    · exact .inl rfl
    · trivial
    · exact .inl rfl
  | op00EE =>
    obtain ⟨_, rfl⟩ := exec_op00EE_eq_next h
    refine (Frame.drop_setPc s _).mono ?_
    rintro p (rfl | rfl)
    · trivial
    · exact .inl rfl
  | op2NNN nnn =>
    obtain ⟨hsp, rfl⟩ := exec_op2NNN_eq_next h
    refine (Frame.push_setPc s _ _ hsp).mono ?_
    rintro p (rfl | rfl | ⟨k, hk, rfl⟩)
    · trivial
    · exact .inr ⟨nnn, rfl⟩
    · exact ⟨⟨nnn, rfl⟩, hk⟩
  | opANNN nnn =>
    cases h
    refine (Frame.setI_advance s _).mono ?_
    rintro p (rfl | rfl)
    · exact .inl ⟨nnn, rfl⟩
    · trivial
  | opFX29 x =>
    cases h
    refine (Frame.setI_advance s _).mono ?_
    rintro p (rfl | rfl)
    · exact .inr ⟨x, .inr (.inl rfl)⟩
    · trivial
  | opFX1E x =>
    cases h
    refine ((Frame.setI s _).trans (Frame.writeV_advance _ VF _)).mono ?_
    rintro p (rfl | rfl | rfl)
    · exact .inr ⟨x, .inl rfl⟩
    · exact .inr ⟨rfl, rfl⟩
    · trivial
  | opCXNN x nn =>
    cases h
    refine ((Frame.drawn s).trans (Frame.writeV_advance _ x _)).mono ?_
    rintro p (rfl | rfl | rfl)
    · exact ⟨x, nn, rfl⟩
    · exact .inl rfl
    · trivial
  | opDXYN x y n =>
    obtain ⟨-, ht⟩ := checkRange_next h
    cases ht
    refine (Frame.drawnSprite s x y n).mono ?_
    rintro p (rfl | rfl | rfl | ⟨px, py, rfl⟩)
    · exact .inr ⟨rfl, rfl⟩
    · exact .inr ⟨x, y, n, rfl⟩
    · trivial
    · exact .inr ⟨x, y, n, rfl⟩
  | opFX0A x =>
    obtain ⟨-, rfl⟩ | ⟨k, -, rfl⟩ := exec_opFX0A_eq_next h
    · exact .mayWrite_setPc _ t.pc
    · exact .mayWrite_result _ rfl
  | opFX15 x =>
    cases h
    refine ((Frame.setDt s _).trans (Frame.setPc _ _)).mono ?_
    rintro p (rfl | rfl)
    · exact ⟨x, rfl⟩
    · trivial
  | opFX18 x =>
    cases h
    refine ((Frame.setSt s _).trans (Frame.setPc _ _)).mono ?_
    rintro p (rfl | rfl)
    · exact ⟨x, rfl⟩
    · trivial
  | opFX33 x =>
    obtain ⟨-, ht⟩ := checkRange_next h
    cases ht
    refine ((Frame.setMem_writeBytes s _ _).trans (Frame.setPc _ _)).mono ?_
    rintro p (⟨k, hk, rfl⟩ | rfl)
    · exact ⟨Nat.le_add_right _ _, Nat.add_lt_add_left hk _⟩
    · trivial
  | opFX55 x =>
    obtain ⟨-, rfl⟩ := exec_opFX55_eq_next h
    refine ((Frame.setMem_writeBytes s _ _).trans (Frame.setI_advance _ _)).mono ?_
    rintro p (⟨k, hk, rfl⟩ | rfl | rfl)
    · rw [State.length_block] at hk
      exact ⟨Nat.le_add_right _ _, Nat.add_lt_add_left hk _⟩
    · exact .inr ⟨x, .inr (.inr (.inl rfl))⟩
    · trivial
  | opFX65 x =>
    obtain ⟨-, ht⟩ := checkRange_next h
    cases ht
    refine ((Frame.writeBlock s _ (blockLength_le x)).trans (Frame.setI_advance _ _)).mono ?_
    rintro p (⟨r, hr, rfl⟩ | rfl | rfl)
    · exact .inl (Nat.le_of_lt_succ hr)
    · exact .inr ⟨x, .inr (.inr (.inr rfl))⟩
    · trivial

/-! ## The flag register (rule R11) -/

theorem flagByte_eq (b : Bool) : flagByte b = 0 ∨ flagByte b = 1 := by
  cases b
  · exact .inl rfl
  · exact .inr rfl

/-- An instruction of the flag list leaves 0 or 1 in VF unless its result lands there. -/
theorem exec_flag (h : exec i s = .next t) (hf : writesFlag i = true) (hd : ¬ destination i VF) :
    t.readV VF = 0 ∨ t.readV VF = 1 := by
  cases i with
  | op8XY4 x | op8XY5 x | op8XY6 x | op8XY7 x | op8XYE x =>
    obtain ⟨u, hu, -, hflag, -, -⟩ := writeFlagResult_spec s x _ _
    cases hu.symm.trans h
    exact hflag (Ne.symm hd) ▸ flagByte_eq _
  | opFX1E x =>
    cases h
    exact (State.readV_writeFlag_VF _ _).symm ▸ flagByte_eq _
  | opDXYN x y n =>
    obtain ⟨-, ht⟩ := checkRange_next h
    cases ht
    exact (drawnSprite_readV_VF s x y n).symm ▸ flagByte_eq _
  | _ => exact nomatch hf

/-! ## Where PC goes (rules R67, R81 to R83) -/

/-- An instruction that is no jump, call, return, skip or key wait moves PC on by 2. -/
theorem exec_pc_of_not_redirects (h : exec i s = .next t) (hr : redirects i = false) : t.pc = s.pc + 2 := by
  cases i with
  | op00EE | op1NNN | op2NNN | opBNNN | op3XNN | op4XNN | op5XY0 | op9XY0 | opEX9E | opEXA1 | opFX0A => exact nomatch hr
  | opDXYN | opFX33 | opFX55 =>
    obtain ⟨-, ht⟩ := checkRange_next h
    cases ht
    rfl
  | opFX65 =>
    obtain ⟨-, ht⟩ := checkRange_next h
    cases ht
    simp
  | _ =>
    cases h
    rfl

theorem State.pc_skipIf_cases (s : State) (taken : Bool) :
    (s.skipIf taken).pc = s.pc + 2 ∨ (s.skipIf taken).pc = s.pc + 4 := by
  cases taken
  · exact .inl rfl
  · exact .inr rfl

theorem exec_opFX0A_pc {x : Reg} (h : exec (.opFX0A x) s = .next t) :
    t.pc = if ∀ k, s.keyDown k = false then s.pc else s.pc + 2 := by
  obtain ⟨hk, rfl⟩ | ⟨k, hk, rfl⟩ := exec_opFX0A_eq_next h
  · rw [if_pos (State.firstKey_eq_none.1 hk)]
  · rw [if_neg fun hall => nomatch hk.symm.trans (State.firstKey_eq_none.2 hall)]
    rfl

/-! ## Which accesses fault (rule R171) -/

/-- An instruction that accesses memory is a check of its range before anything else. -/
theorem exec_eq_checkRange (s : State) (h : 1 ≤ accessedBytes i) :
    ∃ k, exec i s = checkRange i s (accessedBytes i) k := by
  cases i with
  | opDXYN | opFX33 | opFX55 | opFX65 => exact ⟨_, rfl⟩
  | _ => exact absurd h (Nat.not_succ_le_zero 0)

end

/-! ## What no instruction reads (rule R23) -/

/-- The parts of the state that the host observes and no program reads. -/
def hostOnly (p : Part) : Prop := p = .df ∨ p = .beep ∨ p = .st

/-- A state with these parts replaced. -/
def State.withHost (s : State) (df beep : Bool) (st : Byte) : State := ((s.setDf df).setBeep beep).setSt st

/-- Two results that end alike: in states that differ in these parts only, or in the same fault. -/
inductive Alike : Result → Result → Prop where
  | next {t t' : State} (h : Frame t t' hostOnly) : Alike (.next t) (.next t')
  | fault (f : Fault) : Alike (.fault f) (.fault f)

theorem Alike.eq_fault_iff {r r' : Result} (h : Alike r r') (f : Fault) : r = .fault f ↔ r' = .fault f := by
  cases h with
  | next => exact ⟨nofun, nofun⟩
  | fault => exact Iff.rfl

theorem Alike.exists_next {r r' : Result} {t : State} (h : Alike r r') (ht : r = .next t) :
    ∃ t', r' = .next t' ∧ Frame t t' hostOnly := by
  cases h with
  | next hframe =>
    cases ht
    exact ⟨_, rfl, hframe⟩
  | fault => exact nomatch ht

theorem Frame.withHost (s : State) (df beep : Bool) (st : Byte) : Frame s (s.withHost df beep st) hostOnly := by
  intro p hp
  cases p with
  | df | beep | st => exact absurd (by simp [hostOnly]) hp
  | _ => rfl

section
variable (s : State) (df beep : Bool) (st : Byte)

theorem State.writeBlock_withHost (f : Nat → Byte) (n : Nat) :
    (s.withHost df beep st).writeBlock f n = (s.writeBlock f n).withHost df beep st := by
  induction n with
  | zero => rfl
  | succ n ih => simp only [State.writeBlock, ih]; rfl

/-- The range check reads I and PC only. -/
theorem Alike.checkRange (i : Instr) (len : Nat) {k k' : Result} (h : Alike k k') :
    Alike (checkRange i s len k) (checkRange i (s.withHost df beep st) len k') := by
  have hrange : outOfRange (s.withHost df beep st).i.toNat len = outOfRange s.i.toNat len := rfl
  unfold Machine.checkRange
  rw [hrange]
  cases outOfRange s.i.toNat len with
  | none => exact h
  | some addr => exact .fault _

/-- An instruction run in states that differ in these parts only ends alike. -/
theorem exec_alike (i : Instr) : Alike (exec i s) (exec i (s.withHost df beep st)) := by
  cases i with
  | op00E0 => exact .next (Frame.withHost _ true beep st)
  | opFX18 x => exact .next (Frame.withHost _ df beep (s.readV x))
  | op00EE =>
    by_cases hsp : 0 < s.sp.val
    · rw [exec_op00EE_next s hsp, exec_op00EE_next (s.withHost df beep st) hsp]
      exact .next (Frame.withHost _ df beep st)
    · have hempty : s.sp.val = 0 := by omega
      rw [exec_op00EE_eq_fault.2 ⟨hempty, rfl⟩, exec_op00EE_eq_fault (s := s.withHost df beep st) |>.2 ⟨hempty, rfl⟩]
      exact .fault _
  | op2NNN nnn =>
    by_cases hsp : s.sp.val < 16
    · rw [exec_op2NNN_next s nnn hsp, exec_op2NNN_next (s.withHost df beep st) nnn hsp]
      exact .next (Frame.withHost _ df beep st)
    · have hfull : s.sp.val = 16 := by omega
      rw [exec_op2NNN_eq_fault.2 ⟨hfull, rfl⟩, exec_op2NNN_eq_fault (s := s.withHost df beep st) |>.2 ⟨hfull, rfl⟩]
      exact .fault _
  | opFX0A x =>
    have hfirst : (s.withHost df beep st).firstKey = s.firstKey := rfl
    cases hk : s.firstKey with
    | none =>
      rw [exec_opFX0A_blocked s x hk, exec_opFX0A_blocked _ x (hfirst.trans hk)]
      exact .next (Frame.withHost _ df beep st)
    | some k =>
      rw [exec_opFX0A_key s x hk, exec_opFX0A_key _ x (hfirst.trans hk)]
      exact .next (Frame.withHost _ df beep st)
  | opDXYN => exact .checkRange s df beep st _ _ (.next (Frame.withHost _ true beep st))
  | opFX33 | opFX55 => exact .checkRange s df beep st _ _ (.next (Frame.withHost _ df beep st))
  | opFX65 x =>
    refine .checkRange s df beep st _ _ ?_
    rw [State.writeBlock_withHost]
    exact .next (Frame.withHost _ df beep st)
  | _ => exact .next (Frame.withHost _ df beep st)

end

/-! ## The statements -/

/-- Settles O37: instruction by instruction, each write is in the row. -/
theorem instructionsWriteOnlyTheirRow : Obligations.InstructionsWriteOnlyTheirRow := fun _ _ _ => exec_frame

/-- Settles O38: outside the list VF is not in the row, and in it the flag is written before the result. -/
theorem flagRegisterIsWrittenByItsList : Obligations.FlagRegisterIsWrittenByItsList := by
  refine ⟨fun s b => ⟨s.readV_writeV_self VF b, Frame.writeV s VF b⟩, fun i s t h hd => ⟨fun hf => ?_, fun hf => ?_⟩⟩
  · refine exec_frame h (.v VF) ?_
    rintro (hdest | ⟨hflag, -⟩)
    · exact hd hdest
    · exact nomatch hf.symm.trans hflag
  · exact exec_flag h hf hd

/-- Settles O39: the ordinary advance, and the seven kinds of instruction that move PC otherwise. -/
theorem programCounterAdvance : Obligations.ProgramCounterAdvance := by
  refine fun i s t h => ⟨exec_pc_of_not_redirects h, ?jump, ?jumpV0, ?ret, ?skipNN, ?skipY, ?skipKey, ?wait⟩
  case jump =>
    rintro nnn (rfl | rfl)
    · cases h
      exact toNat_addressOf nnn
    · obtain ⟨_, rfl⟩ := exec_op2NNN_eq_next h
      exact toNat_addressOf nnn
  case jumpV0 =>
    rintro nnn rfl
    cases h
    exact toNat_addressOf_add_setWidth nnn _
  case ret =>
    rintro rfl
    obtain ⟨hsp, rfl⟩ := exec_op00EE_eq_next h
    obtain ⟨k, hk, htop⟩ := s.top_eq hsp
    exact ⟨k, by omega, congrArg (· + 2) htop⟩
  case skipNN =>
    rintro x nn (rfl | rfl) <;> cases h <;> exact s.pc_skipIf_cases _
  case skipY =>
    rintro x y (rfl | rfl) <;> cases h <;> exact s.pc_skipIf_cases _
  case skipKey =>
    rintro x (rfl | rfl) <;> cases h <;> exact s.pc_skipIf_cases _
  case wait =>
    rintro x rfl
    exact exec_opFX0A_pc h

/-- Settles O40: no arm of `exec` reads the three parts, and what it writes of them depends on none of them. -/
theorem hostOnlyStateIsNotRead : Obligations.HostOnlyStateIsNotRead := fun i s df beep st =>
  ⟨fun f => (exec_alike s df beep st i).eq_fault_iff f, fun _ => (exec_alike s df beep st i).exists_next⟩

/-- Settles O42: the range check is the one source of the fault, and it comes first. -/
theorem addressFaultsExactly : Obligations.AddressFaultsExactly := by
  refine fun i s pc op addr => ⟨fun h => ?_, ?_⟩
  · obtain ⟨_, -, -, ⟨⟩⟩ | ⟨-, -, ⟨⟩⟩ | ⟨a, ha, heq⟩ := exec_eq_fault h
    obtain ⟨hlen, hout, rfl⟩ := (outOfRange_eq_some _ _ _).1 ha
    cases heq
    exact ⟨hlen, Nat.le_sub_one_of_lt hout, rfl, rfl, rfl⟩
  · rintro ⟨hlen, hout, rfl, rfl, rfl⟩
    obtain ⟨k, hk⟩ := exec_eq_checkRange s hlen
    have hlt : 4096 < s.i.toNat + accessedBytes i := by omega
    exact hk.trans (checkRange_fault i s _ k hlen hlt)

end Sys2Proof.Machine
end

section
/-! PROOFS. Host operations, reset and load (60_exceptions.md section 4, 70_reset_and_hazards.md section 1). -/

namespace Sys2Proof.Machine

section
variable (s : State)

/-! ## Timers -/

theorem toNat_countDown (b : Byte) : (countDown b).toNat = b.toNat - 1 := by
  unfold countDown
  split
  · rename_i h
    rw [h]
    rfl
  · rename_i h
    have hpos : b.toNat ≠ 0 := fun h0 => h (BitVec.eq_of_toNat_eq h0)
    have hlt := b.isLt
    rw [BitVec.toNat_sub]
    simp
    omega

/-- Writing BEEP changes no other piece of state. -/
theorem Frame.setBeep (b : Bool) : Frame s (s.setBeep b) (fun p => p = .beep) := by
  intro p hp
  cases p with
  | beep => exact absurd rfl hp
  | _ => rfl

theorem tick_beep : (tick s).beep = true ↔ s.st.toNat = 1 := by
  simp [tick, BitVec.toNat_eq]

theorem tick_st : (tick s).st.toNat = s.st.toNat - 1 := toNat_countDown s.st

/-! ## Keys and cells -/

/-- Writing one key changes no other piece of state. -/
theorem Frame.writeKey (k : KeyIx) (pressed : Bool) : Frame s (s.writeKey k pressed) (fun p => p = .key k) := by
  intro p hp
  cases p with
  | key j => exact (s.keyDown_writeKey k j pressed).trans (if_neg fun h => hp (congrArg Part.key h))
  | _ => rfl

theorem setKey_next {index : Nat} (pressed : Bool) (h : index ≤ 15) :
    setKey index pressed s = .next (s.writeKey (BitVec.ofNat 4 index) pressed) := by
  simp [setKey, keyIndexOk, h]

theorem setKey_refused {index : Nat} (pressed : Bool) (h : 15 < index) :
    setKey index pressed s = .refused (.keyIndexOutOfRange index) := by
  simp [setKey, keyIndexOk, h]

/-- A key index in range is the number of its key. -/
theorem toNat_keyIx {index : Nat} (h : index ≤ 15) : (BitVec.ofNat 4 index).toNat = index := by
  rw [BitVec.toNat_ofNat]
  omega

theorem pixelAt_ok {x y : Nat} (hx : x ≤ 63) (hy : y ≤ 31) : pixelAt x y s = .ok (s.fb.pixel (column x) (line y)) := by
  simp [pixelAt, pixelOk, hx, hy]

theorem pixelAt_refused {x y : Nat} (h : 63 < x ∨ 31 < y) : pixelAt x y s = .error (.pixelOutOfRange x y) := by
  have hout : pixelOk x y = false := by
    simp [pixelOk]
    omega
  simp [pixelAt, hout]

/-! ## Reset and load -/

theorem read_resetWith (font memInit : List Byte) {a : Nat} (h : a < 4096) :
    (State.resetWith font memInit).mem.read a = resetContents font memInit a := by
  rw [State.resetWith_mem, Memory.read_ofContents _ h]

/-- The classic font and then zeros is what unlisted addresses read as. -/
theorem resetContents_classicFont (a : Nat) : resetContents classicFont [] a = unlistedByte a := by
  unfold resetContents
  split
  · rfl
  · rename_i h
    have hout : classicFont.length ≤ a := Nat.le_of_not_lt h
    rw [List.getD_nil]
    exact (List.getD_eq_default classicFont 0 hout).symm

theorem resetWith_classicFont : State.resetWith classicFont [] = State.reset := by
  have hmem : Memory.ofContents (resetContents classicFont []) = [] :=
    Memory.ext (Memory.wf_ofContents _) rfl fun a ha => by
      rw [Memory.read_ofContents _ ha, resetContents_classicFont]
      rfl
  rw [State.resetWith, hmem]
  rfl

/-- The state a load leaves: the bytes from PROG_BASE up, and PC there. -/
def State.loaded (s : State) (bytes : List Byte) : State :=
  (s.setMem (s.mem.writeBytes Config.progBase bytes)).setPc (BitVec.ofNat 16 Config.progBase)

theorem loadProgram_next {bytes : List Byte} (h : bytes.length ≤ 3584) :
    loadProgram bytes s = .next (s.loaded bytes) := by
  simp [loadProgram, programFits, h, State.loaded]

end

/-! ## The statements -/

/-- Settles O44: each timer is one count down, and BEEP is the test of ST before it. -/
theorem tickCountsDown : Obligations.TickCountsDown := fun s =>
  ⟨toNat_countDown s.dt, tick_st s, tick_beep s,
    ((Frame.setDt s _).trans ((Frame.setSt _ _).trans (Frame.setBeep _ _)))⟩

/-- Settles O45, by induction on the ticks: each takes 1 from ST. -/
theorem oneBeepEdge : Obligations.OneBeepEdge := by
  intro s n
  induction n generalizing s with
  | zero => exact tick_beep s
  | succ n ih =>
    rw [Function.iterate_succ_apply, ih (tick s), tick_st]
    omega

/-- Settles O46: one write of the latch in range, a refusal above it. -/
theorem setKeyWritesOneKey : Obligations.SetKeyWritesOneKey := by
  refine fun s index pressed => ⟨fun h => ?_, setKey_refused s pressed⟩
  refine ⟨_, setKey_next s pressed h, fun k hk => ?_, (Frame.writeKey s _ pressed).mono ?_⟩
  · have hkey : k = BitVec.ofNat 4 index := BitVec.eq_of_toNat_eq (hk.trans (toNat_keyIx h).symm)
    exact (s.keyDown_writeKey _ k pressed).trans (if_pos hkey)
  · rintro p rfl
    exact ⟨_, toNat_keyIx h, rfl⟩

/-- Settles O48: the query of a cell in range reads it, and no query has a new state. -/
theorem queriesChangeNothing : Obligations.QueriesChangeNothing := by
  refine fun p => ⟨fun x y => ?_, fun x y h => ?_, rfl, rfl⟩
  · have hcell := pixelAt_ok p.state (Nat.le_of_lt_succ x.isLt) (Nat.le_of_lt_succ y.isLt)
    have hx : column x.val = x := Fin.ext (Nat.mod_eq_of_lt x.isLt)
    have hy : line y.val = y := Fin.ext (Nat.mod_eq_of_lt y.isLt)
    rw [hx, hy] at hcell
    exact ⟨by simp [Session.apply, hcell], by simp [Session.reply, hcell]⟩
  · simp [Session.apply, pixelAt_refused p.state h]

/-- Settles O49: memory is built from the contents named, and every other field is 0. -/
theorem resetLeaves : Obligations.ResetLeaves := by
  refine fun font memInit => ⟨fun r => ?_, rfl, rfl, rfl, fun k => ?_, fun x y => ?_, rfl, fun k => ?_, rfl, rfl, rfl,
    fun a ha => ?_, fun a hlo hhi => ?_⟩
  · simp [State.readV]
  · simp
  · simp [FrameBuffer.pixel]
  · simp [State.keyDown]
  · rw [read_resetWith font memInit (by omega), resetContents, if_pos ha]
  · rw [read_resetWith font memInit hhi, resetContents, if_neg (Nat.not_lt.2 hlo)]

/-- Settles O50: two memories in canonical form that read alike are equal. -/
theorem resetStateIsClassicFontAndZeros : Obligations.ResetStateIsClassicFontAndZeros := resetWith_classicFont

/-- Settles O51: one block of writes and one of PC, or the one fault of a load. -/
theorem loadProgramCopies : Obligations.LoadProgramCopies := by
  refine fun bytes s => ⟨fun h => ?_, fun h => loadProgram_eq_fault.2 ⟨h, rfl⟩⟩
  have hfits : 512 + bytes.length ≤ 4096 := by omega
  refine ⟨_, loadProgram_next s h, fun j hj => Memory.read_writeBytes_add s.mem 512 bytes hj hfits, rfl, ?_⟩
  exact ((Frame.setMem_writeBytes s 512 bytes).trans (Frame.setPc _ _)).mono fun _ => Or.symm

/-- Settles O52: the phase alone refuses, and a program that fits completes the first load. -/
theorem hostDutiesAreRefused : Obligations.HostDutiesAreRefused := fun s bytes =>
  ⟨rfl, rfl, fun h => ⟨s.loaded bytes, by simp [Session.apply, loadProgram_next s h, Session.lift], rfl⟩⟩

end Sys2Proof.Machine
end

section
/-! PROOFS. The invariant of rule R27 (10_state.md section 13): a reset establishes it, a step and every other host
operation keep it, so every session a host can bring about and every infinite sequence of operations keeps it. -/

namespace Sys2Proof.Machine

section
variable {s t : State} {i : Instr}

/-! ## The three clauses along an instruction -/

/-- Memory stays in canonical form: FX33 and FX55 change it by a block of writes, nothing else changes it. -/
theorem exec_mem_wf (h : exec i s = .next t) (hwf : s.mem.wf = true) : t.mem.wf = true := by
  cases i with
  | op00EE =>
    obtain ⟨_, rfl⟩ := exec_op00EE_eq_next h
    exact hwf
  | op2NNN =>
    obtain ⟨_, rfl⟩ := exec_op2NNN_eq_next h
    exact hwf
  | opFX0A =>
    obtain ⟨-, rfl⟩ | ⟨_, -, rfl⟩ := exec_opFX0A_eq_next h
    · exact hwf
    · exact hwf
  | opDXYN =>
    obtain ⟨-, ht⟩ := checkRange_next h
    cases ht
    exact hwf
  | opFX33 | opFX55 =>
    obtain ⟨-, ht⟩ := checkRange_next h
    cases ht
    exact Memory.wf_writeBytes hwf _ _
  | opFX65 =>
    obtain ⟨-, ht⟩ := checkRange_next h
    cases ht
    simpa using hwf
  | _ =>
    cases h
    exact hwf

/-- A stack entry is what it was, or the address of the call that pushed it (rule R15). -/
theorem exec_stack (h : exec i s = .next t) (k : Fin 16) : t.stack[k] = s.stack[k] ∨ t.stack[k] = s.pc := by
  by_cases hw : mayWrite i s (.stack k)
  · obtain ⟨⟨nnn, rfl⟩, hk⟩ := hw
    obtain ⟨hsp, rfl⟩ := exec_op2NNN_eq_next h
    exact .inr ((s.stack_push s.pc hsp k).trans (if_pos hk))
  · exact .inl (exec_frame h (.stack k) hw)

/-- Adding 2 or 4 to an address an instruction can be fetched from keeps the bound on PC. -/
theorem toNat_add_le {a k : Word} (ha : a.toNat ≤ 0xFFE) (hk : k.toNat ≤ 4) : (a + k).toNat ≤ 0x10FE := by
  rw [BitVec.toNat_add]
  omega

/-- PC stays at most 0x10FE: the farthest an instruction sets it is 0xFFF + 0xFF, by BNNN (rule R13). -/
theorem exec_pc_le (h : exec i s = .next t) (hpc : s.pc.toNat ≤ 0xFFE)
    (hstack : ∀ k : Fin 16, s.stack[k].toNat ≤ 0xFFE) : t.pc.toNat ≤ 0x10FE := by
  obtain ⟨hadvance, hjump, hjumpV0, hret, hskipNN, hskipY, hskipKey, hwait⟩ := programCounterAdvance i s t h
  have htwo : (s.pc + 2).toNat ≤ 0x10FE := toNat_add_le hpc (by decide)
  have hskip : t.pc = s.pc + 2 ∨ t.pc = s.pc + 4 → t.pc.toNat ≤ 0x10FE := by
    rintro (h2 | h4)
    · exact h2 ▸ htwo
    · exact h4 ▸ toNat_add_le hpc (by decide)
  cases i with
  | op1NNN nnn | op2NNN nnn =>
    have hn := nnn.isLt
    have hto := hjump nnn (by simp)
    omega
  | opBNNN nnn =>
    have hn := nnn.isLt
    have hv := (s.readV 0).isLt
    have hto := hjumpV0 nnn rfl
    omega
  | op00EE =>
    obtain ⟨k, -, hto⟩ := hret rfl
    exact hto ▸ toNat_add_le (hstack k) (by decide)
  | op3XNN x nn | op4XNN x nn => exact hskip (hskipNN x nn (by simp))
  | op5XY0 x y | op9XY0 x y => exact hskip (hskipY x y (by simp))
  | opEX9E x | opEXA1 x => exact hskip (hskipKey x (by simp))
  | opFX0A x =>
    rw [hwait x rfl]
    split
    · omega
    · exact htwo
  | _ => exact (hadvance rfl) ▸ htwo

/-! ## The invariant along every operation -/

/-- An instruction that was fetched keeps the invariant. -/
theorem exec_keeps_inv (hs : s.Inv) (hpc : s.pc.toNat ≤ 0xFFE) (h : exec i s = .next t) : t.Inv where
  memory := exec_mem_wf h hs.memory
  stack k := by
    obtain hk | hk := exec_stack h k
    · exact hk ▸ hs.stack k
    · exact hk ▸ hpc
  pc := exec_pc_le h hpc hs.stack

/-- A change of PC within its bound keeps the invariant. -/
theorem State.Inv.setPc (hs : s.Inv) {pc : Word} (hpc : pc.toNat ≤ 0x10FE) : (s.setPc pc).Inv :=
  ⟨hs.memory, hs.stack, hpc⟩

/-- The draws are no part of the invariant. -/
theorem State.Inv.setDraws (hs : s.Inv) (draws : Nat) : (s.setDraws draws).Inv := ⟨hs.memory, hs.stack, hs.pc⟩

/-- A block of writes to memory keeps the invariant. -/
theorem State.Inv.setMem_writeBytes (hs : s.Inv) (a : Nat) (ws : List Byte) : (s.setMem (s.mem.writeBytes a ws)).Inv :=
  ⟨Memory.wf_writeBytes hs.memory a ws, hs.stack, hs.pc⟩

theorem fetchWord_pc_le {w : Word} (h : s.fetchWord = .ok w) : s.pc.toNat ≤ 0xFFE := by
  have hin : s.pc.toNat + 1 < 4096 := (State.fetchWord_eq_ok h).1
  omega

theorem step_keeps_inv (hs : s.Inv) (h : step s = .next t) : t.Inv := by
  obtain ⟨w, i, hf, -, hexec⟩ | ⟨w, hf, -, rfl⟩ := step_cases h
  · exact exec_keeps_inv hs (fetchWord_pc_le hf) hexec
  · exact hs.setPc (toNat_add_le (fetchWord_pc_le hf) (by decide))

theorem resetWith_inv (font memInit : List Byte) : (State.resetWith font memInit).Inv where
  memory := by rw [State.resetWith_mem, Memory.wf_ofContents]
  stack k := by simp
  pc := by simp

/-- Every operation that completes keeps the invariant. -/
theorem apply_keeps_inv {p q : Session} {o : HostOp} (hp : p.state.Inv) (h : p.apply o = .next q) : q.state.Inv := by
  obtain ⟨font, memInit, -, rfl⟩ | ⟨bytes, -, -, -, rfl⟩ | ⟨-, -, t, ht, rfl⟩ | ⟨-, rfl⟩ | ⟨index, pressed, -, -, rfl⟩ |
    ⟨-, rfl⟩ | ⟨x, y, -, -, rfl⟩ | ⟨-, rfl⟩ := Session.apply_cases h
  case inl => exact (resetWith_inv font memInit).setDraws _
  case inr.inl => exact (hp.setMem_writeBytes _ bytes).setPc (by decide)
  case inr.inr.inl => exact step_keeps_inv hp ht
  all_goals exact ⟨hp.memory, hp.stack, hp.pc⟩

/-- Every operation that is performed, a faulting one too, keeps the invariant. -/
theorem perform_keeps_inv {p q : Session} {o : HostOp} {reply : Reply} (hp : p.state.Inv)
    (h : p.perform o = .ok (q, reply)) : q.state.Inv := by
  obtain ⟨hq | ⟨rfl, -⟩, -⟩ := Session.perform_eq_ok.1 h
  · exact apply_keeps_inv hp hq
  · exact hp

end

/-! ## The statements -/

/-- Settles O54: any reset builds its memory in canonical form, and `State.reset` is one of them. -/
theorem resetMeetsInvariant : Obligations.ResetMeetsInvariant :=
  ⟨resetWith_classicFont ▸ resetWith_inv classicFont [], resetWith_inv⟩

/-- Settles O55: the step was fetched from an address up to 0xFFE, and each clause is kept from there. -/
theorem stepKeepsInvariant : Obligations.StepKeepsInvariant := fun _ _ => step_keeps_inv

/-- Settles O58: a reset establishes the invariant, a load and a step keep it, and no other operation touches what it
speaks of. -/
theorem operationsKeepInvariant : Obligations.OperationsKeepInvariant := fun _ _ _ => apply_keeps_inv

/-- Settles O56, by induction on how the session was brought about. -/
theorem reachableSessionsKeepInvariant : Obligations.ReachableSessionsKeepInvariant := by
  intro p hp
  induction hp with
  | start font memInit => exact resetWith_inv font memInit
  | op o _ h ih => exact apply_keeps_inv ih h

end Sys2Proof.Machine
end

section
/-! PROOFS. Sequences of operations (00_scope.md section 6, 60_exceptions.md section 5): which operations fault, what a
fault leaves and answers, and the finite runs of an infinite sequence. -/

namespace Sys2Proof.Machine

theorem Session.lift_eq_fault {phase : Phase} {r : Result} {f : Fault} :
    Session.lift phase r = .fault f ↔ r = .fault f := by
  cases r <;> simp [Session.lift]

section
variable {p q : Session} {o : HostOp} {f : Fault}

/-- Everything an operation that faults can be: a step that faults, or a load that does. -/
theorem Session.apply_eq_fault (h : p.apply o = .fault f) :
    (o = .step ∧ step p.state = .fault f) ∨ ∃ bytes, o = .loadProgram bytes ∧ loadProgram bytes p.state = .fault f := by
  cases o with
  | step =>
    simp only [Session.apply] at h
    split at h
    · exact nomatch h
    · exact .inl ⟨rfl, Session.lift_eq_fault.1 h⟩
  | loadProgram bytes =>
    simp only [Session.apply] at h
    split at h
    · exact .inr ⟨bytes, rfl, Session.lift_eq_fault.1 h⟩
    · exact nomatch h
  | setKey index pressed =>
    have hkey := Session.lift_eq_fault.1 h
    unfold setKey at hkey
    split at hkey <;> exact nomatch hkey
  | pixelAt x y =>
    simp only [Session.apply] at h
    split at h <;> exact nomatch h
  | reset | tick | isRedrawOwed | onBeepEdge => exact nomatch h

/-- A step that faults is reported with its fault. -/
theorem stepReport_of_fault {s : State} (h : step s = .fault f) : stepReport s = .fault f := by
  obtain ⟨addr, hf, rfl⟩ | ⟨w, i, hf, hd, hexec⟩ := step_eq_fault h
  · exact stepReport_of_fetch_error hf
  · simp [stepReport_decoded hf hd, execReport, hexec]

/-- A run of one more operation. -/
theorem Session.run_concat {m : Session} {os : List HostOp} {replies : List Reply} {reply : Reply}
    (hrun : p.run os = .ok (m, replies)) (hlast : m.perform o = .ok (q, reply)) :
    p.run (os ++ [o]) = .ok (q, replies ++ [reply]) := by
  induction os generalizing p replies with
  | nil =>
    cases hrun
    exact Session.run_cons_eq_ok.2 ⟨q, reply, [], hlast, rfl, rfl⟩
  | cons o' os ih =>
    obtain ⟨p', r', rest, hfirst, hrest, rfl⟩ := Session.run_cons_eq_ok.1 hrun
    exact Session.run_cons_eq_ok.2 ⟨p', r', rest ++ [reply], hfirst, ih hrest, rfl⟩

end

/-! ## The statements -/

/-- Settles O57: with the phase and the argument in order, an operation is the machine's own, and only a step can
fault. -/
theorem admittedOperationsComplete : Obligations.AdmittedOperationsComplete := by
  rintro ⟨phase, s⟩ o hduty
  cases o with
  | step =>
    obtain rfl : phase = .ready := hduty
    cases hs : step s with
    | next t => exact .inl ⟨⟨.ready, t⟩, by simp [Session.apply, hs, Session.lift]⟩
    | fault f => exact .inr ⟨rfl, f, by simp [Session.apply, hs, Session.lift], rfl⟩
    | refused r => exact absurd hs (stepIsNeverRefused s r)
  | loadProgram bytes =>
    obtain ⟨rfl, hlen⟩ : phase = .fresh ∧ bytes.length ≤ 3584 := hduty
    exact .inl ⟨⟨.ready, s.loaded bytes⟩, by simp [Session.apply, loadProgram_next s hlen, Session.lift]⟩
  | setKey index pressed =>
    exact .inl ⟨_, by simp only [Session.apply, setKey_next s pressed hduty, Session.lift]; rfl⟩
  | pixelAt x y => exact .inl ⟨⟨phase, s⟩, by simp [Session.apply, pixelAt_ok s hduty.1 hduty.2]⟩
  | reset | tick | isRedrawOwed | onBeepEdge => exact .inl ⟨_, rfl⟩

/-- Settles O59: a faulting operation is a step or a load, and performing it leaves the session it found. -/
theorem faultsLeaveTheSessionAndAreReplied : Obligations.FaultsLeaveTheSessionAndAreReplied := by
  refine ⟨fun p o f h => ?_, fun p q bytes h => ?_⟩
  · have hperform : p.perform o = .ok (p, p.reply o) := Session.perform_eq_ok.2 ⟨.inr ⟨rfl, f, h⟩, rfl⟩
    refine ⟨?_, hperform, fun os q replies hrun => Session.run_cons_eq_ok.2 ⟨p, _, _, hperform, hrun, rfl⟩⟩
    obtain ⟨rfl, hstep⟩ | ⟨bytes, rfl, hload⟩ := Session.apply_eq_fault h
    · exact .inl ⟨rfl, congrArg Reply.report (stepReport_of_fault hstep)⟩
    · obtain ⟨hlong, rfl⟩ := loadProgram_eq_fault.1 hload
      exact .inr ⟨bytes, rfl, rfl, by simp [Session.reply, loadReport, programFits, hlong]⟩
  · obtain ⟨_, _, ⟨⟩, -⟩ | ⟨bytes', ⟨⟩, -, hfits, -⟩ | ⟨⟨⟩, -⟩ | ⟨⟨⟩, -⟩ | ⟨_, _, ⟨⟩, -⟩ | ⟨⟨⟩, -⟩ | ⟨_, _, ⟨⟩, -⟩ |
      ⟨⟨⟩, -⟩ := Session.apply_cases h
    simp [Session.reply, loadReport, hfits]

/-- Settles O60, by induction on the operations performed: one more is a run of one more, and keeps the invariant. -/
theorem schedulesRunWithoutEnd : Obligations.SchedulesRunWithoutEnd := by
  intro p ops hp hadmits n
  induction n with
  | zero => exact ⟨p, [], rfl, rfl, rfl, hp⟩
  | succ n ih =>
    obtain ⟨m, replies, hm, hrun, hlen, hinv⟩ := ih
    obtain ⟨q, hq⟩ := hadmits (n + 1)
    obtain ⟨m', reply, hm', hperform⟩ := Session.before_succ_eq_ok.1 hq
    cases hm.symm.trans hm'
    refine ⟨q, replies ++ [reply], hq, ?_, by simp [hlen], perform_keeps_inv hinv hperform⟩
    rw [List.range_succ, List.map_append]
    exact Session.run_concat hrun hperform

end Sys2Proof.Machine
end
